-- ==== Sys2Proof/Word.lean ====
section
/-! DEFINITION. The word types of the block (rules R7, R8): every value is an unsigned number of a stated width. -/
namespace Sys2Proof

/-- An 8-bit value: a general register, a memory cell, a timer (rules R21, R29, R30). -/
abbrev Byte := BitVec 8

/-- A 16-bit value: I, PC, a return address, an opcode (rules R23, R24, R26, R90). -/
abbrev Word := BitVec 16

/-- A register number: the X and Y fields are 4 bits wide, so every value names a register (rule R21). -/
abbrev Reg := Fin 16

/-- VF, register number 15, which seven instructions also write as a flag (rule R22). -/
abbrev regVF : Reg := 15

end Sys2Proof
end

