-- ==== Sys2Proof/Syntax.lean ====
section
/-! DEFINITION. The 35 instructions (rule R96), one constructor per row of spec/opcode_table.json.
Operands are the fields of rule R91 a format carries (rule R92), already turned into what they mean. -/
namespace Sys2Proof

inductive Instr where
  /-- 00E0 `CLS` (R200) -/
  | cls
  /-- 00EE `RET` (R150) -/
  | ret
  /-- 00FF `MODESW` (R260) -/
  | modesw
  /-- 1NNN `JP nnn` (R151) -/
  | jp (nnn : BitVec 12)
  /-- 2NNN `CALL nnn` (R152) -/
  | call (nnn : BitVec 12)
  /-- 3XNN `SE Vx, nn` (R160) -/
  | seImm (x : Reg) (nn : Byte)
  /-- 4XNN `SNE Vx, nn` (R161) -/
  | sneImm (x : Reg) (nn : Byte)
  /-- 5XY0 `SE Vx, Vy` (R162) -/
  | seReg (x y : Reg)
  /-- 6XNN `LD Vx, nn` (R170) -/
  | ldImm (x : Reg) (nn : Byte)
  /-- 7XNN `ADD Vx, nn` (R171) -/
  | addImm (x : Reg) (nn : Byte)
  /-- 8XY0 `LD Vx, Vy` (R181) -/
  | ldReg (x y : Reg)
  /-- 8XY1 `OR Vx, Vy` (R182) -/
  | orReg (x y : Reg)
  /-- 8XY2 `AND Vx, Vy` (R183) -/
  | andReg (x y : Reg)
  /-- 8XY3 `XOR Vx, Vy` (R184) -/
  | xorReg (x y : Reg)
  /-- 8XY4 `ADD Vx, Vy` (R185) -/
  | addReg (x y : Reg)
  /-- 8XY5 `SUB Vx, Vy` (R186) -/
  | subReg (x y : Reg)
  /-- 8XY6 `SHR Vx` (R187); Y is carried and ignored (R99) -/
  | shr (x y : Reg)
  /-- 8XY7 `SUBN Vx, Vy` (R188) -/
  | subn (x y : Reg)
  /-- 8XYE `SHL Vx` (R189); Y is carried and ignored (R99) -/
  | shl (x y : Reg)
  /-- 9XY0 `SNE Vx, Vy` (R163) -/
  | sneReg (x y : Reg)
  /-- ANNN `LD I, nnn` (R172) -/
  | ldI (nnn : BitVec 12)
  /-- BNNN `JP V0, nnn` (R153) -/
  | jpV0 (nnn : BitVec 12)
  /-- CXNN `RND Vx, nn` (R173) -/
  | rnd (x : Reg) (nn : Byte)
  /-- DXYN `DRW Vx, Vy, n` (R204); `n` is the count of rows, 0 to 15 -/
  | drw (x y : Reg) (n : Nat)
  /-- EX9E `SKP Vx` (R222) -/
  | skp (x : Reg)
  /-- EXA1 `SKNP Vx` (R223) -/
  | sknp (x : Reg)
  /-- FX07 `LD Vx, DT` (R230) -/
  | ldRegDt (x : Reg)
  /-- FX0A `LD Vx, K` (R224) -/
  | ldRegKey (x : Reg)
  /-- FX15 `LD DT, Vx` (R231) -/
  | ldDtReg (x : Reg)
  /-- FX18 `LD ST, Vx` (R232) -/
  | ldStReg (x : Reg)
  /-- FX1E `ADD I, Vx` (R240) -/
  | addI (x : Reg)
  /-- FX29 `LD F, Vx` (R241) -/
  | ldGlyph (x : Reg)
  /-- FX33 `LD B, Vx` (R242) -/
  | ldBcd (x : Reg)
  /-- FX55 `LD [I], Vx` (R243); X is a count, not an operand register -/
  | storeRegs (x : Reg)
  /-- FX65 `LD Vx, [I]` (R244); X is a count, not an operand register -/
  | loadRegs (x : Reg)
  deriving DecidableEq, Repr

end Sys2Proof
end

