-- ==== Sys2Proof/WellFormed.lean ====
section
/-! DEFINITION. Which terms of `Instr` an opcode can stand for (rules R91, R93). Register numbers, bytes and
12-bit addresses are in range by their types; the one operand kept as a number is the row count of DXYN. -/
namespace Sys2Proof

/-- The row count of DXYN is the 4-bit field N, a count 0 to 15 (rule R93). -/
def Instr.wellFormed : Instr → Bool
  | .drw _ _ n => n < 16
  | .cls | .ret | .modesw | .jp _ | .call _ | .seImm _ _ | .sneImm _ _ | .seReg _ _
  | .ldImm _ _ | .addImm _ _ | .ldReg _ _ | .orReg _ _ | .andReg _ _ | .xorReg _ _
  | .addReg _ _ | .subReg _ _ | .shr _ _ | .subn _ _ | .shl _ _ | .sneReg _ _
  | .ldI _ | .jpV0 _ | .rnd _ _ | .skp _ | .sknp _ | .ldRegDt _ | .ldRegKey _
  | .ldDtReg _ | .ldStReg _ | .addI _ | .ldGlyph _ | .ldBcd _ | .storeRegs _ | .loadRegs _ => true

end Sys2Proof
end

