-- ==== Sys2Proof/Decode.lean ====
section
/-! DEFINITION. The decoder (rules R60, R91, R94, R95), the encoder (rules R92, R96), the opcode map of rule R96
as masks and matches, and `decodeTableWord`. -/
namespace Sys2Proof

/-! ### Words and bytes -/

/-- An opcode from its two bytes, the byte at the lower address in bits 15 to 8 (rule R60). -/
def wordOfBytes (hi lo : Byte) : Word := hi ++ lo

/-- The byte an opcode has at the lower address (rule R60). -/
def highByte (w : Word) : Byte := w.extractLsb' 8 8

/-- The byte an opcode has at the higher address (rule R60). -/
def lowByte (w : Word) : Byte := w.extractLsb' 0 8

/-! ### Fields (rule R91) -/

def fieldOP (w : Word) : BitVec 4 := w.extractLsb' 12 4
def fieldX (w : Word) : Reg := (w.extractLsb' 8 4).toFin
def fieldY (w : Word) : Reg := (w.extractLsb' 4 4).toFin
def fieldN (w : Word) : BitVec 4 := w.extractLsb' 0 4
def fieldNN (w : Word) : Byte := w.extractLsb' 0 8
def fieldNNN (w : Word) : BitVec 12 := w.extractLsb' 0 12

/-! ### Decoding (rules R94, R95) -/

/-- Family 0 is matched on all 16 bits (rule R94). -/
def decodeFamily0 (w : Word) : Option Instr :=
  if w = 0x00E0#16 then some .cls
  else if w = 0x00EE#16 then some .ret
  else if w = 0x00FF#16 then some .modesw
  else none

/-- Families 5 and 9 fix the low nibble at 0 (rule R94). -/
def decodeNibble0 (w : Word) (i : Instr) : Option Instr :=
  if fieldN w = 0x0#4 then some i else none

/-- Family 8 is selected by the field N (rule R94). -/
def decodeFamily8 (w : Word) : Option Instr :=
  if fieldN w = 0x0#4 then some (.ldReg (fieldX w) (fieldY w))
  else if fieldN w = 0x1#4 then some (.orReg (fieldX w) (fieldY w))
  else if fieldN w = 0x2#4 then some (.andReg (fieldX w) (fieldY w))
  else if fieldN w = 0x3#4 then some (.xorReg (fieldX w) (fieldY w))
  else if fieldN w = 0x4#4 then some (.addReg (fieldX w) (fieldY w))
  else if fieldN w = 0x5#4 then some (.subReg (fieldX w) (fieldY w))
  else if fieldN w = 0x6#4 then some (.shr (fieldX w) (fieldY w))
  else if fieldN w = 0x7#4 then some (.subn (fieldX w) (fieldY w))
  else if fieldN w = 0xE#4 then some (.shl (fieldX w) (fieldY w))
  else none

/-- Family E is selected by the field NN (rule R94). -/
def decodeFamilyE (w : Word) : Option Instr :=
  if fieldNN w = 0x9E#8 then some (.skp (fieldX w))
  else if fieldNN w = 0xA1#8 then some (.sknp (fieldX w))
  else none

/-- Family F is selected by the field NN (rule R94). -/
def decodeFamilyF (w : Word) : Option Instr :=
  if fieldNN w = 0x07#8 then some (.ldRegDt (fieldX w))
  else if fieldNN w = 0x0A#8 then some (.ldRegKey (fieldX w))
  else if fieldNN w = 0x15#8 then some (.ldDtReg (fieldX w))
  else if fieldNN w = 0x18#8 then some (.ldStReg (fieldX w))
  else if fieldNN w = 0x1E#8 then some (.addI (fieldX w))
  else if fieldNN w = 0x29#8 then some (.ldGlyph (fieldX w))
  else if fieldNN w = 0x33#8 then some (.ldBcd (fieldX w))
  else if fieldNN w = 0x55#8 then some (.storeRegs (fieldX w))
  else if fieldNN w = 0x65#8 then some (.loadRegs (fieldX w))
  else none

/-- `Decode(w)`: dispatch on the high nibble, then on the family's secondary selector (rule R94); `none` is
`Unrecognized` (rule R95). It reads nothing but the 16 opcode bits. -/
def decodeWord (w : Word) : Option Instr :=
  if fieldOP w = 0x0#4 then decodeFamily0 w
  else if fieldOP w = 0x1#4 then some (.jp (fieldNNN w))
  else if fieldOP w = 0x2#4 then some (.call (fieldNNN w))
  else if fieldOP w = 0x3#4 then some (.seImm (fieldX w) (fieldNN w))
  else if fieldOP w = 0x4#4 then some (.sneImm (fieldX w) (fieldNN w))
  else if fieldOP w = 0x5#4 then decodeNibble0 w (.seReg (fieldX w) (fieldY w))
  else if fieldOP w = 0x6#4 then some (.ldImm (fieldX w) (fieldNN w))
  else if fieldOP w = 0x7#4 then some (.addImm (fieldX w) (fieldNN w))
  else if fieldOP w = 0x8#4 then decodeFamily8 w
  else if fieldOP w = 0x9#4 then decodeNibble0 w (.sneReg (fieldX w) (fieldY w))
  else if fieldOP w = 0xA#4 then some (.ldI (fieldNNN w))
  else if fieldOP w = 0xB#4 then some (.jpV0 (fieldNNN w))
  else if fieldOP w = 0xC#4 then some (.rnd (fieldX w) (fieldNN w))
  else if fieldOP w = 0xD#4 then some (.drw (fieldX w) (fieldY w) (fieldN w).toNat)
  else if fieldOP w = 0xE#4 then decodeFamilyE w
  else decodeFamilyF w

/-- Why bytes give no instruction. -/
inductive DecodeError where
  /-- The opcode matches no row of rule R96 (rules R95, R97). -/
  | unrecognized (opcode : Word)
  /-- Fewer than two bytes: an instruction is exactly two (rule R90). -/
  | truncated
  deriving DecidableEq, Repr

/-- The instruction the first two bytes stand for, and the bytes after it (rules R90, R60). -/
def decodeBytes : List Byte → Except DecodeError (Instr × List Byte)
  | hi :: lo :: rest =>
    match decodeWord (wordOfBytes hi lo) with
    | some i => .ok (i, rest)
    | none => .error (.unrecognized (wordOfBytes hi lo))
  | _ => .error .truncated

/-! ### Encoding (rules R92, R96) -/

/-- A register number as a 4-bit field. -/
def regBits (r : Reg) : BitVec 4 := BitVec.ofFin r

/-- Format `A`: a high nibble and a 12-bit address. -/
def formatA (op : BitVec 4) (nnn : BitVec 12) : Word := op ++ nnn
/-- Format `XI`: a high nibble, a register, a byte. -/
def formatXI (op : BitVec 4) (x : Reg) (nn : Byte) : Word := op ++ regBits x ++ nn
/-- Formats `XY` and `XYN`: a high nibble, two registers, a nibble. -/
def formatXYN (op : BitVec 4) (x y : Reg) (n : BitVec 4) : Word := op ++ regBits x ++ regBits y ++ n

/-- The opcode of an instruction; its two bytes are `highByte` and `lowByte` of it, in this order in memory. -/
def encode : Instr → Word
  | .cls => 0x00E0#16
  | .ret => 0x00EE#16
  | .modesw => 0x00FF#16
  | .jp nnn => formatA 0x1#4 nnn
  | .call nnn => formatA 0x2#4 nnn
  | .seImm x nn => formatXI 0x3#4 x nn
  | .sneImm x nn => formatXI 0x4#4 x nn
  | .seReg x y => formatXYN 0x5#4 x y 0x0#4
  | .ldImm x nn => formatXI 0x6#4 x nn
  | .addImm x nn => formatXI 0x7#4 x nn
  | .ldReg x y => formatXYN 0x8#4 x y 0x0#4
  | .orReg x y => formatXYN 0x8#4 x y 0x1#4
  | .andReg x y => formatXYN 0x8#4 x y 0x2#4
  | .xorReg x y => formatXYN 0x8#4 x y 0x3#4
  | .addReg x y => formatXYN 0x8#4 x y 0x4#4
  | .subReg x y => formatXYN 0x8#4 x y 0x5#4
  | .shr x y => formatXYN 0x8#4 x y 0x6#4
  | .subn x y => formatXYN 0x8#4 x y 0x7#4
  | .shl x y => formatXYN 0x8#4 x y 0xE#4
  | .sneReg x y => formatXYN 0x9#4 x y 0x0#4
  | .ldI nnn => formatA 0xA#4 nnn
  | .jpV0 nnn => formatA 0xB#4 nnn
  | .rnd x nn => formatXI 0xC#4 x nn
  | .drw x y n => formatXYN 0xD#4 x y (BitVec.ofNat 4 n)
  | .skp x => formatXI 0xE#4 x 0x9E#8
  | .sknp x => formatXI 0xE#4 x 0xA1#8
  | .ldRegDt x => formatXI 0xF#4 x 0x07#8
  | .ldRegKey x => formatXI 0xF#4 x 0x0A#8
  | .ldDtReg x => formatXI 0xF#4 x 0x15#8
  | .ldStReg x => formatXI 0xF#4 x 0x18#8
  | .addI x => formatXI 0xF#4 x 0x1E#8
  | .ldGlyph x => formatXI 0xF#4 x 0x29#8
  | .ldBcd x => formatXI 0xF#4 x 0x33#8
  | .storeRegs x => formatXI 0xF#4 x 0x55#8
  | .loadRegs x => formatXI 0xF#4 x 0x65#8

/-- The two bytes of an instruction in memory order (rule R60). -/
def encodeBytes (i : Instr) : List Byte := [highByte (encode i), lowByte (encode i)]

/-! ### The opcode map (rule R96) -/

/-- A row of rule R96: an opcode `w` selects it when `w AND mask = value`. -/
structure OpcodeRow where
  pattern : String
  mask    : Word
  value   : Word
  deriving DecidableEq, Repr

def OpcodeRow.selects (r : OpcodeRow) (w : Word) : Bool := w &&& r.mask == r.value

/-- The name rule R96 gives an instruction's row. -/
def Instr.pattern : Instr → String
  | .cls => "00E0"
  | .ret => "00EE"
  | .jp _ => "1NNN"
  | .call _ => "2NNN"
  | .seImm _ _ => "3XNN"
  | .sneImm _ _ => "4XNN"
  | .seReg _ _ => "5XY0"
  | .ldImm _ _ => "6XNN"
  | .addImm _ _ => "7XNN"
  | .ldReg _ _ => "8XY0"
  | .orReg _ _ => "8XY1"
  | .andReg _ _ => "8XY2"
  | .xorReg _ _ => "8XY3"
  | .addReg _ _ => "8XY4"
  | .subReg _ _ => "8XY5"
  | .shr _ _ => "8XY6"
  | .subn _ _ => "8XY7"
  | .shl _ _ => "8XYE"
  | .sneReg _ _ => "9XY0"
  | .ldI _ => "ANNN"
  | .jpV0 _ => "BNNN"
  | .rnd _ _ => "CXNN"
  | .drw _ _ _ => "DXYN"
  | .skp _ => "EX9E"
  | .sknp _ => "EXA1"
  | .ldRegDt _ => "FX07"
  | .ldRegKey _ => "FX0A"
  | .ldDtReg _ => "FX15"
  | .ldStReg _ => "FX18"
  | .addI _ => "FX1E"
  | .ldGlyph _ => "FX29"
  | .ldBcd _ => "FX33"
  | .storeRegs _ => "FX55"
  | .loadRegs _ => "FX65"
  | .modesw => "00FF"

/-- The 35 rows of rule R96, in its order. -/
def opcodeRows : List OpcodeRow :=
  [⟨"00E0", 0xFFFF, 0x00E0⟩,
   ⟨"00EE", 0xFFFF, 0x00EE⟩,
   ⟨"1NNN", 0xF000, 0x1000⟩,
   ⟨"2NNN", 0xF000, 0x2000⟩,
   ⟨"3XNN", 0xF000, 0x3000⟩,
   ⟨"4XNN", 0xF000, 0x4000⟩,
   ⟨"5XY0", 0xF00F, 0x5000⟩,
   ⟨"6XNN", 0xF000, 0x6000⟩,
   ⟨"7XNN", 0xF000, 0x7000⟩] ++
  [⟨"8XY0", 0xF00F, 0x8000⟩,
   ⟨"8XY1", 0xF00F, 0x8001⟩,
   ⟨"8XY2", 0xF00F, 0x8002⟩,
   ⟨"8XY3", 0xF00F, 0x8003⟩,
   ⟨"8XY4", 0xF00F, 0x8004⟩,
   ⟨"8XY5", 0xF00F, 0x8005⟩,
   ⟨"8XY6", 0xF00F, 0x8006⟩,
   ⟨"8XY7", 0xF00F, 0x8007⟩,
   ⟨"8XYE", 0xF00F, 0x800E⟩] ++
  [⟨"9XY0", 0xF00F, 0x9000⟩,
   ⟨"ANNN", 0xF000, 0xA000⟩,
   ⟨"BNNN", 0xF000, 0xB000⟩,
   ⟨"CXNN", 0xF000, 0xC000⟩,
   ⟨"DXYN", 0xF000, 0xD000⟩,
   ⟨"EX9E", 0xF0FF, 0xE09E⟩,
   ⟨"EXA1", 0xF0FF, 0xE0A1⟩] ++
  [⟨"FX07", 0xF0FF, 0xF007⟩,
   ⟨"FX0A", 0xF0FF, 0xF00A⟩,
   ⟨"FX15", 0xF0FF, 0xF015⟩,
   ⟨"FX18", 0xF0FF, 0xF018⟩,
   ⟨"FX1E", 0xF0FF, 0xF01E⟩,
   ⟨"FX29", 0xF0FF, 0xF029⟩,
   ⟨"FX33", 0xF0FF, 0xF033⟩,
   ⟨"FX55", 0xF0FF, 0xF055⟩,
   ⟨"FX65", 0xF0FF, 0xF065⟩,
   ⟨"00FF", 0xFFFF, 0x00FF⟩]

/-! ### The host's question -/

/-- The instruction the decoder reads from an instruction whose bits are `w`, numbered as spec/opcode_table.json
numbers them: the one 16-bit word, laid out high byte first (rule R60). Bits from `nbits` up are zero. -/
def decodeTableWord (nbits w : Nat) : Option Instr :=
  let word : Word := BitVec.ofNat 16 (w % 2 ^ nbits)
  match decodeBytes [highByte word, lowByte word] with
  | .ok (i, _) => some i
  | .error _ => none

end Sys2Proof
end

