-- ==== Sys2Proof/Config.lean ====
section
/-! DEFINITION. What the implementation fixes (rule R6) and the values the spec leaves to the outside. -/
namespace Sys2Proof

/-- `TIMER_POLICY`: when the timers step (rules R6, R128). -/
inductive TimerPolicy where
  | perTick    -- one timer step at the end of every tick that ends Ok
  | decoupled  -- only on the host's `timer_tick`
  deriving DecidableEq, Repr

/-- `KEY_SELECT`: which of several keys that are down FX0A captures (rules R6, R224). -/
inductive KeySelect where
  | lowest   -- the lowest-numbered one
  | anyDown  -- any one of them: `Config.keyChoice` picks
  deriving DecidableEq, Repr

/-- `KEY_RANGE_POLICY`: what EX9E and EXA1 do when `V[X]` is above 15 (rules R6, R225). -/
inductive KeyRangePolicy where
  | fault       -- `KeyIndexOutOfRange`
  | mask        -- use `V[X] mod 16`
  | notPressed  -- treat the key as up
  deriving DecidableEq, Repr

/-- The parameters of the block that rule R6 marks OPEN and a state can carry as plain data.
Nothing the block does writes them. -/
structure Params where
  stackDepth     : Nat
  timerPolicy    : TimerPolicy
  keySelect      : KeySelect
  keyRangePolicy : KeyRangePolicy
  deriving DecidableEq, Repr

namespace Config

/-- The values rule R6 gives the parameters for this hardware (decisions D1, D2, D6, D7 of
spec/92_eei_decisions.md; notes/assumptions/1.md). -/
def hardware : Params where
  stackDepth := 16
  timerPolicy := .perTick
  keySelect := .lowest
  keyRangePolicy := .fault

/-- `MEM_SIZE` (rule R6). -/
abbrev memSize : Nat := 4096
/-- `ADDR_MAX`, the highest valid address (rules R6, R63). -/
abbrev addrMax : Nat := 4095
/-- `FB_W`, framebuffer columns (rules R6, R32). -/
abbrev fbWidth : Nat := 64
/-- `FB_H`, framebuffer rows (rules R6, R32). -/
abbrev fbHeight : Nat := 32
/-- `PROG_BASE`, where a load puts the ROM and where PC starts (rules R6, R303). -/
abbrev progBase : Nat := 0x200
/-- `PROG_MAX`, the most bytes a load accepts (rules R6, R304). -/
abbrev progMax : Nat := 3584
/-- `NUM_KEYS` (rules R6, R220). -/
abbrev numKeys : Nat := 16
/-- `GLYPH_SIZE`, bytes of one font glyph (rules R6, R31). -/
abbrev glyphSize : Nat := 5

/-- `FONT`, the 80 bytes of rule R31, one line a digit (decision D21; notes/assumptions/2.md). -/
def font : List Byte :=
  [0xF0, 0x90, 0x90, 0x90, 0xF0] ++
  [0x20, 0x60, 0x20, 0x20, 0x70] ++
  [0xF0, 0x10, 0xF0, 0x80, 0xF0] ++
  [0xF0, 0x10, 0xF0, 0x10, 0xF0] ++
  [0x90, 0x90, 0xF0, 0x10, 0x10] ++
  [0xF0, 0x80, 0xF0, 0x10, 0xF0] ++
  [0xF0, 0x80, 0xF0, 0x90, 0xF0] ++
  [0xF0, 0x10, 0x20, 0x40, 0x40] ++
  [0xF0, 0x90, 0xF0, 0x90, 0xF0] ++
  [0xF0, 0x90, 0xF0, 0x10, 0xF0] ++
  [0xF0, 0x90, 0xF0, 0x90, 0x90] ++
  [0xE0, 0x90, 0xE0, 0x90, 0xE0] ++
  [0xF0, 0x80, 0x80, 0x80, 0xF0] ++
  [0xE0, 0x90, 0x90, 0x90, 0xE0] ++
  [0xF0, 0x80, 0xF0, 0x80, 0xF0] ++
  [0xF0, 0x80, 0xF0, 0x80, 0x80]

/-- The random input (rules R37, R173): the byte the n-th draw gets when the host has queued none.
A FREE VALUE: nothing constrains it (notes/assumptions/4.md). -/
opaque randomByte : Nat → Byte

/-- The key that `KeySelect.anyDown` names for given key lines. A FREE VALUE: nothing constrains it,
and it is used only where the key it names is down (notes/assumptions/1.md). -/
opaque keyChoice : Vector Bool 16 → Fin 16

end Config
end Sys2Proof
end

