-- ==== Sys2Proof/Machine/State.lean ====
section
/-! DEFINITION. The state of the block (rule R20) with its parameters, its inputs and the host's pending events beside it;
the faults of rule R270; the state after reset (rule R39). -/
namespace Sys2Proof.Machine

/-- Memory as (address, byte) pairs: addresses strictly rising, no entry equal to what an unlisted address reads as
(rule R30; the form is `Memory.wf` of Machine/Ops.lean). -/
abbrev Memory := List Host.Cell

/-- The framebuffer, 32 rows of 64 one-bit cells, row first (rule R32): `fb[y][x]` is the spec's `FB[x][y]`. -/
abbrev Framebuffer := Vector (Vector Bool 64) 32

/-- What the host may start or drive between instructions (rules R120, R221). -/
inductive HostEvent where
  /-- One instruction and, under `perTick`, one timer step (R122). -/
  | tick
  /-- One timer step; exists under `decoupled` only (R128). -/
  | timerTick
  /-- Installs the reset values (R300). -/
  | reset
  /-- Reset, then the ROM from 0x200 up (R303, R304). -/
  | load (rom : List Byte)
  /-- Key line `k` goes down; a key above 15 is rejected (R221). -/
  | press (k : Nat)
  /-- Key line `k` goes up; a key above 15 is rejected (R221). -/
  | release (k : Nat)
  deriving DecidableEq, Repr

structure State where
  /-- `Mem`, 4096 cells (R30). -/
  mem       : Memory
  /-- `V0` to `VF` (R21). -/
  v         : Vector Byte 16
  /-- `I` (R23). -/
  i         : Word
  /-- `PC` (R24). -/
  pc        : Word
  /-- The entries of `Stack` in use, `Stack[0]` first; `SP` is their number (R26). -/
  stack     : List Word
  /-- `DT` (R29). -/
  dt        : Byte
  /-- `ST` (R29). -/
  st        : Byte
  /-- `FB` (R32). -/
  fb        : Framebuffer
  /-- The parameters of rule R6; nothing writes them. -/
  params    : Params
  /-- The 16 key lines as they stand now, an input (R37, R220). -/
  keys      : Vector Bool 16
  /-- The bytes the random input delivers next, oldest first, an input (R37, R173). -/
  randQueue : List Byte
  /-- MODEL'S OWN: how many bytes have been drawn from the free random input `Config.randomByte`. -/
  draws     : Nat
  /-- MODEL'S OWN: the events the host starts next, oldest first; with none pending it ticks (R120). -/
  hostQueue : List HostEvent
  deriving DecidableEq, Repr

/-- The complete list of faults (rule R270). A fault is the outcome of a tick reported to the host; the state is
unchanged (rules R275, R276). All five are the spec's own, so all are safe but for the points named. -/
inductive Fault where
  /-- Code 1 (R271): decode, an opcode that matches no row of R96. Safe. -/
  | unrecognizedInstruction (opcode pc : Word)
  /-- Code 2 (R272): the fetch, DXYN, FX33, FX55, FX65; the address is above 4095. Safe, but that the lowest
  offending address is the one reported is decision D10. -/
  | memoryOutOfBounds (addr : Nat)
  /-- Code 3 (R273): 2NNN with a full stack. Safe. -/
  | stackOverflow
  /-- Code 4 (R277): 00EE with an empty stack. Safe. -/
  | stackUnderflow
  /-- Code 5 (R274): EX9E, EXA1 with `V[X]` above 15 under `KeyRangePolicy.fault`. Safe (decision D7). -/
  | keyIndexOutOfRange (k : Byte)
  deriving DecidableEq, Repr

/-- The code of a fault (rule R270). -/
def Fault.code : Fault → Nat
  | .unrecognizedInstruction _ _ => 1
  | .memoryOutOfBounds _ => 2
  | .stackOverflow => 3
  | .stackUnderflow => 4
  | .keyIndexOutOfRange _ => 5

/-- Moves the model does not admit. No instruction is refused. -/
inductive Refusal where
  /-- An instruction without a meaning, by its mnemonic: no arm raises it. Safe. -/
  | notModelled (mnemonic : String)
  /-- A `timer_tick` under `perTick`, where "the event `timer_tick` does not exist" (R128): raised by the host
  event, never by an instruction. Safe. -/
  | timerTickUnderPerTick
  deriving DecidableEq, Repr

/-- The machine right after reset (rule R39). Memory lists nothing: the reset contents are what an unlisted address
reads as. The parameters are this hardware's (rule R6); the key lines and the random input are not state of the
block and stand at "all 0 if it has set nothing" (rule R221) and at nothing queued; `draws` and `hostQueue` are the
model's own (notes/assumptions/3.md, 4.md). -/
def State.reset : State where
  mem       := []
  v         := Vector.replicate 16 0
  i         := 0
  pc        := 0x0200
  stack     := []
  dt        := 0
  st        := 0
  fb        := Vector.replicate 32 (Vector.replicate 64 false)
  params    := Config.hardware
  keys      := Vector.replicate 16 false
  randQueue := []
  draws     := 0
  hostQueue := []

end Sys2Proof.Machine
end

