-- ==== Sys2Proof/Machine/Ops.lean ====
section
/-! DEFINITION. The shared operations: memory (rules R60, R63 to R66), registers, the program counter (R126, R127),
the stack (R26 to R28), raising a fault (R275, R276), the timer step (R128), the random input (R173), the fetch (R123)
and what the host reads (R132). -/
namespace Sys2Proof.Machine

/-- The outcome of a tick: Ok with the new state, or a fault (rule R10). -/
abbrev Result := Host.Outcome State Fault Refusal

/-! ### Memory -/

/-- What an unlisted address reads as: the reset contents, the font from 0x000 and 0x00 above it (rules R31, R39, R66). -/
def background (a : Nat) : Byte := Config.font.getD a 0

/-- The cell at address `a` (rule R63, for `a` at most 4095: the bound is checked by `checkAccess`). -/
def Memory.read : Memory → Nat → Byte
  | [], a => background a
  | c :: m, a => if a = c.1 then c.2 else Memory.read m a

/-- Put a listed cell where its address stands in rising order. -/
def Memory.insertCell (a : Nat) (b : Byte) : Memory → Memory
  | [] => [(a, b)]
  | c :: m => if a < c.1 then (a, b) :: c :: m else c :: Memory.insertCell a b m

/-- `Mem[a] <- b` (rule R63). Writing what an unlisted address reads as removes the entry. -/
def Memory.write (m : Memory) (a : Nat) (b : Byte) : Memory :=
  if b = background a then m.filter (fun c => c.1 ≠ a)
  else Memory.insertCell a b (m.filter (fun c => c.1 ≠ a))

/-- The canonical form: addresses strictly rising, below 4096, no entry equal to what an unlisted address reads as. -/
abbrev Memory.wf (m : Memory) : Prop :=
  m.Pairwise (fun c d => c.1 < d.1) ∧ ∀ c ∈ m, c.1 < Config.memSize ∧ c.2 ≠ background c.1

/-- `n` bytes from `a` up, lowest address first (rule R61). -/
def Memory.readBytes (m : Memory) (a : Nat) : Nat → List Byte
  | 0 => []
  | n + 1 => m.read a :: Memory.readBytes m (a + 1) n

/-- The bytes of a list to `a`, `a + 1` and so on, in this order (rule R61). -/
def Memory.writeBytes (m : Memory) (a : Nat) : List Byte → Memory
  | [] => m
  | b :: bs => Memory.writeBytes (m.write a b) (a + 1) bs

/-- The byte of `Mem` at `a` in a state. -/
def State.byteAt (s : State) (a : Nat) : Byte := s.mem.read a

/-! ### Writes of single fields -/

def State.setMem (s : State) (m : Memory) : State := { s with mem := m }
def State.setI (s : State) (w : Word) : State := { s with i := w }
def State.setPc (s : State) (w : Word) : State := { s with pc := w }
def State.setStack (s : State) (l : List Word) : State := { s with stack := l }
def State.setDt (s : State) (b : Byte) : State := { s with dt := b }
def State.setSt (s : State) (b : Byte) : State := { s with st := b }
def State.setFb (s : State) (f : Framebuffer) : State := { s with fb := f }
def State.setV (s : State) (v : Vector Byte 16) : State := { s with v := v }
def State.setKeys (s : State) (k : Vector Bool 16) : State := { s with keys := k }

/-! ### General registers (rule R21) -/

/-- `V[r]`. -/
def State.reg (s : State) (r : Reg) : Byte := s.v[r.val]

/-- `V[r] <- b`. -/
def State.setReg (s : State) (r : Reg) (b : Byte) : State := s.setV (s.v.set r.val b)

/-- Bytes into consecutive registers from number `k` up (rule R244). -/
def fillRegs (v : Vector Byte 16) (k : Nat) : List Byte → Vector Byte 16
  | [] => v
  | b :: bs => fillRegs (v.setIfInBounds k b) (k + 1) bs

/-! ### Faults (rules R275, R276) -/

/-- `raise F(info)`: the one way an exceptional condition is taken in this machine. The tick's outcome is the fault;
nothing is saved, no control is transferred inside the machine and the state stays as it was (rules R275, R276).
There is no return from a fault (rule R282). -/
def raise (f : Fault) : Result := .fault f

/-- The address reported when `k` bytes from `base` up do not all lie in memory: the lowest one above 4095
(rule R64, decision D10); `none` when the access is in range or touches no byte. -/
def offendingAddress (base k : Nat) : Option Nat :=
  if 1 ≤ k ∧ Config.addrMax < base + k - 1 then
    some (if Config.addrMax < base then base else Config.addrMax + 1)
  else none

/-- All bytes are checked before anything is changed (rule R64). -/
def checkAccess (base k : Nat) (body : Result) : Result :=
  match offendingAddress base k with
  | some a => raise (.memoryOutOfBounds a)
  | none => body

/-! ### Program counter (rules R126, R127) -/

/-- The default advance: `PC <- (P + 2) mod 65536`. -/
def State.advance (s : State) : State := s.setPc (s.pc + 2)

/-- A taken skip: `PC <- (P + 4) mod 65536`; one not taken is the default advance (rules R127, R164). -/
def State.skipIf (s : State) (taken : Bool) : State := if taken then s.setPc (s.pc + 4) else s.advance

/-! ### Call stack (rules R26 to R28) -/

/-- `SP`, the number of entries in use. -/
def State.sp (s : State) : Nat := s.stack.length

/-- `Push(a)`, then `body` (rule R27). -/
def push (s : State) (a : Word) (body : State → Result) : Result :=
  if s.sp = s.params.stackDepth then raise .stackOverflow else body (s.setStack (s.stack ++ [a]))

/-- `Pop()`, then `body` with the newest entry (rule R28). -/
def pop (s : State) (body : Word → State → Result) : Result :=
  match s.stack.getLast? with
  | none => raise .stackUnderflow
  | some a => body a (s.setStack s.stack.dropLast)

/-! ### Timers (rules R29, R128) -/

/-- One count toward zero, never below it. -/
def countDown (b : Byte) : Byte := if b = 0 then 0 else b - 1

/-- One timer-tick: both timers in the same step. -/
def State.timerStep (s : State) : State := (s.setDt (countDown s.dt)).setSt (countDown s.st)

/-- The timer step of a tick whose outcome is Ok: under `perTick` only (rule R128). -/
def State.endOfTick (s : State) : State :=
  match s.params.timerPolicy with
  | .perTick => s.timerStep
  | .decoupled => s

/-- Steps 4 and 5 of a tick: the timer step follows an Ok outcome, a fault does none (rules R129, R130). -/
def timersAfter : Result → Result
  | .next s => .next s.endOfTick
  | .fault f => .fault f
  | .refused r => .refused r

/-! ### Random input (rules R37, R173) -/

/-- The byte `Rand()` gives in this state: the oldest the host has queued, else a free value. -/
def State.randomByte (s : State) : Byte :=
  match s.randQueue with
  | b :: _ => b
  | [] => Config.randomByte s.draws

/-- One byte has been taken from the random input. -/
def State.afterDraw (s : State) : State :=
  match s.randQueue with
  | _ :: rest => { s with randQueue := rest }
  | [] => { s with draws := s.draws + 1 }

/-! ### Framebuffer (rules R32, R201, R202) -/

/-- All cells off. -/
def Framebuffer.clear : Framebuffer := Vector.replicate 32 (Vector.replicate 64 false)

/-- The cell at column `x mod 64` and row `y mod 32`. -/
def Framebuffer.cell (f : Framebuffer) (x y : Nat) : Bool :=
  (f[y % 32]'(Nat.mod_lt _ (by decide)))[x % 64]'(Nat.mod_lt _ (by decide))

/-- `FB[x mod 64][y mod 32] <- b`. -/
def Framebuffer.setCell (f : Framebuffer) (x y : Nat) (b : Bool) : Framebuffer :=
  f.set (y % 32) ((f[y % 32]'(Nat.mod_lt _ (by decide))).set (x % 64) b (Nat.mod_lt _ (by decide)))
    (Nat.mod_lt _ (by decide))

/-- `draw_pixel(x, y)`: toggle the cell at `(x mod 64, y mod 32)`; the result is the cell's new value (rule R201). -/
def Framebuffer.drawPixel (f : Framebuffer) (x y : Nat) : Framebuffer × Bool :=
  (f.setCell x y (!f.cell x y), !f.cell x y)

/-! ### Fetch (rule R123) -/

/-- `MemRead(PC, 2)`: both addresses are checked, the byte at PC is the high byte (rules R60, R64, R123). -/
def fetch (s : State) : Except Fault Word :=
  match offendingAddress s.pc.toNat 2 with
  | some a => .error (.memoryOutOfBounds a)
  | none => .ok (wordOfBytes (s.byteAt s.pc.toNat) (s.byteAt (s.pc.toNat + 1)))

/-! ### What the host reads between events (rule R132) -/

/-- The cell in column `x` and row `y`. -/
def State.pixel (s : State) (x y : Nat) : Bool := s.fb.cell x y

/-- The 2048 cells of the framebuffer as a list, row-major: cell (x, y) at index `64 * y + x` (rule R32). -/
def State.cellGrid (s : State) : List Bool := (List.range 2048).map fun k => s.pixel (k % 64) (k / 64)

/-- The snapshot the host reads: the cell grid, ST, DT. The outcome of the last tick is the step's own. -/
structure HostView where
  cells : List Bool
  soundTimer : Byte
  delayTimer : Byte
  deriving DecidableEq, Repr

def State.hostView (s : State) : HostView := ⟨s.cellGrid, s.st, s.dt⟩

end Sys2Proof.Machine
end

