-- ==== Sys2Proof/Machine/Operands.lean ====
section
/-! DEFINITION. The operand forms (rules R93, R203, R245): zero-extended immediates and registers, I plus a counted
offset, the digits FX33 stores, the cells a sprite toggles, the key a register names. -/
namespace Sys2Proof.Machine

/-- `zext_16(NNN)` (rule R93). -/
def addressOf (nnn : BitVec 12) : Word := nnn.setWidth 16

/-- `zext_16(V[r])` (rule R93). -/
def State.reg16 (s : State) (r : Reg) : Word := (s.reg r).setWidth 16

/-- The base of every data access: I as a natural number, not wrapped when an offset is added (rule R245). -/
def State.base (s : State) : Nat := s.i.toNat

/-- How many bytes FX55 and FX65 move: the field X plus one (rules R243, R244). -/
def regCount (x : Reg) : Nat := x.val + 1

/-- I after FX55 and FX65: advanced by the count of bytes moved (rules R243, R244). -/
def State.advancedI (s : State) (x : Reg) : Word := s.i + BitVec.ofNat 16 (regCount x)

/-- The values of `V[0]` to `V[X]`, `V[0]` first (rule R243). -/
def State.lowRegs (s : State) (x : Reg) : List Byte := s.v.toList.take (regCount x)

/-- Hundreds, tens, ones of a byte (rule R242). -/
def decimalDigits (b : Byte) : List Byte := [b / 100, b / 10 % 10, b % 10]

/-- The offsets of the bits of 1 of a sprite row, left to right: bit `7 - c` is column `c` (rule R203). -/
def rowColumns (row : Byte) : List Nat := (List.range 8).filter fun c => row.getLsbD (7 - c)

/-- The cells a sprite at column `x`, row `y` toggles, rows top to bottom, columns left to right (rules R203, R204). -/
def spriteCells (x : Nat) : Nat → List Byte → List (Nat × Nat)
  | _, [] => []
  | y, row :: rows => (rowColumns row).map (fun c => (x + c, y)) ++ spriteCells x (y + 1) rows

/-- `draw_pixel` on each cell in turn; the flag is set as soon as one new value is 0 (rule R204). -/
def drawCells (f : Framebuffer) (collided : Bool) : List (Nat × Nat) → Framebuffer × Bool
  | [] => (f, collided)
  | p :: ps => drawCells (f.drawPixel p.1 p.2).1 (collided || !(f.drawPixel p.1 p.2).2) ps

/-- The lowest-numbered key that is down (rule R224). -/
def lowestDown (keys : Vector Bool 16) : Option (Fin 16) :=
  [0, 1, 2, 3, 4, 5, 6, 7, 8, 9, 10, 11, 12, 13, 14, 15].find? fun k : Fin 16 => keys[k.val]

/-- `KEY_SELECT(Key)`: a key that is down, `none` when every key is up (rule R224, decision D6). -/
def State.selectedKey (s : State) : Option (Fin 16) :=
  match lowestDown s.keys with
  | none => none
  | some k =>
    match s.params.keySelect with
    | .lowest => some k
    | .anyDown => if s.keys[(Config.keyChoice s.keys).val] then some (Config.keyChoice s.keys) else some k

/-- The state of the key line a register value names; `none` when the value is above 15 and the policy is a fault
(rules R222, R223, R225, decision D7). -/
def State.keyLine (s : State) (k : Byte) : Option Bool :=
  if h : k.toNat < 16 then some s.keys[k.toNat]
  else
    match s.params.keyRangePolicy with
    | .fault => none
    | .mask => some (s.keys[k.toNat % 16]'(Nat.mod_lt _ (by decide)))
    | .notPressed => some false

end Sys2Proof.Machine
end

