-- ==== Sys2Proof/Machine/Flags.lean ====
section
/-! DEFINITION. The flag computations of rule R33. A flag is the byte 0x00 or 0x01 written to VF; operands are read
before anything is written and the flag is written before the result (rule R180). -/
namespace Sys2Proof.Machine

/-- A flag as the byte VF gets (rule R33). -/
def flagByte (b : Bool) : Byte := if b then 1 else 0

/-- 8XY4: carry out of bit 7 (rule R185). -/
def carryFlag (a b : Byte) : Bool := decide (255 < a.toNat + b.toNat)

/-- 8XY5, 8XY7: 1 means no borrow in `a - b` (rules R186, R188). -/
def noBorrowFlag (a b : Byte) : Bool := decide (b.toNat ≤ a.toNat)

/-- 8XY6: the bit a right shift drops (rule R187). -/
def lowBitFlag (a : Byte) : Bool := a.getLsbD 0

/-- 8XYE: the bit a left shift drops (rule R189). -/
def highBitFlag (a : Byte) : Bool := a.getLsbD 7

/-- FX1E: the new I is above 0xFFF (rule R240). -/
def indexFlag (newI : Word) : Bool := decide (0x0FFF < newI.toNat)

/-- `V[15] <- flag`. -/
def State.setFlag (s : State) (flag : Bool) : State := s.setReg regVF (flagByte flag)

/-- The two writes of a flag-writing ALU operation, VF first, then `V[X]`: with X = 15 the result stays
(rule R180, decision D5; notes/assumptions/7.md). -/
def State.setFlagThenReg (s : State) (flag : Bool) (x : Reg) (result : Byte) : State :=
  (s.setFlag flag).setReg x result

end Sys2Proof.Machine
end

