-- ==== Sys2Proof/Machine/Alu.lean ====
section
/-! DEFINITION. Register-to-register ALU operations: 8XY0 to 8XY7, 8XYE (spec/44_alu.md, rules R180, R190). -/
namespace Sys2Proof.Machine

/-- 8XY0 `LD Vx, Vy` (rule R181). -/
def execLdReg (x y : Reg) (s : State) : Result := .next (s.setReg x (s.reg y)).advance

/-- 8XY1 `OR Vx, Vy` (rule R182). -/
def execOrReg (x y : Reg) (s : State) : Result := .next (s.setReg x (s.reg x ||| s.reg y)).advance

/-- 8XY2 `AND Vx, Vy` (rule R183). -/
def execAndReg (x y : Reg) (s : State) : Result := .next (s.setReg x (s.reg x &&& s.reg y)).advance

/-- 8XY3 `XOR Vx, Vy` (rule R184). -/
def execXorReg (x y : Reg) (s : State) : Result := .next (s.setReg x (s.reg x ^^^ s.reg y)).advance

/-- 8XY4 `ADD Vx, Vy` (rule R185). -/
def execAddReg (x y : Reg) (s : State) : Result :=
  .next (s.setFlagThenReg (carryFlag (s.reg x) (s.reg y)) x (s.reg x + s.reg y)).advance

/-- 8XY5 `SUB Vx, Vy` (rule R186). -/
def execSubReg (x y : Reg) (s : State) : Result :=
  .next (s.setFlagThenReg (noBorrowFlag (s.reg x) (s.reg y)) x (s.reg x - s.reg y)).advance

/-- 8XY6 `SHR Vx`: Y is ignored (rules R187, R99). -/
def execShr (x _y : Reg) (s : State) : Result :=
  .next (s.setFlagThenReg (lowBitFlag (s.reg x)) x (s.reg x >>> 1)).advance

/-- 8XY7 `SUBN Vx, Vy` (rule R188). -/
def execSubn (x y : Reg) (s : State) : Result :=
  .next (s.setFlagThenReg (noBorrowFlag (s.reg y) (s.reg x)) x (s.reg y - s.reg x)).advance

/-- 8XYE `SHL Vx`: Y is ignored (rules R189, R99). -/
def execShl (x _y : Reg) (s : State) : Result :=
  .next (s.setFlagThenReg (highBitFlag (s.reg x)) x (s.reg x <<< 1)).advance

end Sys2Proof.Machine
end

