-- ==== Sys2Proof/Machine/Constant.lean ====
section
/-! DEFINITION. Constants and random: 6XNN, 7XNN, ANNN, CXNN (spec/43_const_and_random.md). -/
namespace Sys2Proof.Machine

/-- 6XNN `LD Vx, nn` (rule R170). -/
def execLdImm (x : Reg) (nn : Byte) (s : State) : Result := .next (s.setReg x nn).advance

/-- 7XNN `ADD Vx, nn`: wraps, no flag (rule R171). -/
def execAddImm (x : Reg) (nn : Byte) (s : State) : Result := .next (s.setReg x (s.reg x + nn)).advance

/-- ANNN `LD I, nnn` (rule R172). -/
def execLdI (nnn : BitVec 12) (s : State) : Result := .next (s.setI (addressOf nnn)).advance

/-- CXNN `RND Vx, nn`: one fresh byte of the random input, masked (rule R173). -/
def execRnd (x : Reg) (nn : Byte) (s : State) : Result :=
  .next (s.afterDraw.setReg x (s.randomByte &&& nn)).advance

end Sys2Proof.Machine
end

