-- ==== Sys2Proof/Machine/Control.lean ====
section
/-! DEFINITION. Control transfer: 00EE, 1NNN, 2NNN, BNNN (spec/41_control_transfer.md, rule R154). -/
namespace Sys2Proof.Machine

/-- 00EE `RET` (rule R150). -/
def execRet (s : State) : Result := pop s fun a t => .next (t.setPc a)

/-- 1NNN `JP nnn` (rule R151). -/
def execJp (nnn : BitVec 12) (s : State) : Result := .next (s.setPc (addressOf nnn))

/-- 2NNN `CALL nnn` (rule R152). -/
def execCall (nnn : BitVec 12) (s : State) : Result :=
  push s (s.pc + 2) fun t => .next (t.setPc (addressOf nnn))

/-- BNNN `JP V0, nnn` (rule R153). -/
def execJpV0 (nnn : BitVec 12) (s : State) : Result := .next (s.setPc (addressOf nnn + s.reg16 0))

end Sys2Proof.Machine
end

