-- ==== Sys2Proof/Machine/Index.lean ====
section
/-! DEFINITION. Address register and memory instructions: FX1E, FX29, FX33, FX55, FX65 (spec/48_index_memory.md). -/
namespace Sys2Proof.Machine

/-- I after FX1E: 16 bits, wrapping (rule R240, decision D9). -/
def State.sumI (s : State) (x : Reg) : Word := s.i + s.reg16 x

/-- FX1E `ADD I, Vx`: the flag is a test of the stored result (rule R240). -/
def execAddI (x : Reg) (s : State) : Result :=
  .next ((s.setI (s.sumI x)).setFlag (indexFlag (s.sumI x))).advance

/-- FX29 `LD F, Vx`: neither masked nor checked (rule R241). -/
def execLdGlyph (x : Reg) (s : State) : Result :=
  .next (s.setI (BitVec.ofNat 16 Config.glyphSize * s.reg16 x)).advance

/-- FX33 `LD B, Vx` (rule R242). -/
def execLdBcd (x : Reg) (s : State) : Result :=
  checkAccess s.base 3 <|
    .next (s.setMem (s.mem.writeBytes s.base (decimalDigits (s.reg x)))).advance

/-- FX55 `LD [I], Vx` (rule R243). -/
def execStoreRegs (x : Reg) (s : State) : Result :=
  checkAccess s.base (regCount x) <|
    .next ((s.setMem (s.mem.writeBytes s.base (s.lowRegs x))).setI (s.advancedI x)).advance

/-- FX65 `LD Vx, [I]` (rule R244). -/
def execLoadRegs (x : Reg) (s : State) : Result :=
  checkAccess s.base (regCount x) <|
    .next ((s.setV (fillRegs s.v 0 (s.mem.readBytes s.base (regCount x)))).setI (s.advancedI x)).advance

end Sys2Proof.Machine
end

