-- ==== Sys2Proof/Machine/Keypad.lean ====
section
/-! DEFINITION. Keypad instructions: EX9E, EXA1, FX0A (spec/46_keypad.md). -/
namespace Sys2Proof.Machine

/-- The key number is the whole register; one above 15 is handled by the range policy (rules R222, R223, R225). -/
def withKeyLine (s : State) (k : Byte) (body : Bool → Result) : Result :=
  match s.keyLine k with
  | none => raise (.keyIndexOutOfRange k)
  | some down => body down

/-- EX9E `SKP Vx` (rule R222). -/
def execSkp (x : Reg) (s : State) : Result := withKeyLine s (s.reg x) fun down => .next (s.skipIf down)

/-- EXA1 `SKNP Vx` (rule R223). -/
def execSknp (x : Reg) (s : State) : Result := withKeyLine s (s.reg x) fun down => .next (s.skipIf (!down))

/-- FX0A `LD Vx, K`: with no key down the tick is Ok and PC stays, so the same instruction is fetched again
(rules R224, R226). -/
def execLdRegKey (x : Reg) (s : State) : Result :=
  match s.selectedKey with
  | none => .next (s.setPc s.pc)
  | some k => .next (s.setReg x (BitVec.ofNat 8 k.val)).advance

end Sys2Proof.Machine
end

