-- ==== Sys2Proof/Machine/ModeSwitch.lean ====
section
/-! DEFINITION. The mode-switch opcode 00FF (spec/49_mode_switch.md): accepted, does nothing. -/
namespace Sys2Proof.Machine

/-- 00FF `MODESW`: the machine's only no-operation (rule R260). -/
def execModesw (s : State) : Result := .next s.advance

end Sys2Proof.Machine
end

