-- ==== Sys2Proof/Machine/Screen.lean ====
section
/-! DEFINITION. The framebuffer instructions 00E0 and DXYN (spec/45_framebuffer.md). -/
namespace Sys2Proof.Machine

/-- 00E0 `CLS` (rules R200, R202). -/
def execCls (s : State) : Result := .next (s.setFb Framebuffer.clear).advance

/-- DXYN `DRW Vx, Vy, n` (rules R201, R203, R204): all rows are read before any toggle, VF is the collision. -/
def execDrw (x y : Reg) (n : Nat) (s : State) : Result :=
  checkAccess s.base n <|
    let drawn := drawCells s.fb false (spriteCells (s.reg x).toNat (s.reg y).toNat (s.mem.readBytes s.base n))
    .next ((s.setFb drawn.1).setFlag drawn.2).advance

end Sys2Proof.Machine
end

