-- ==== Sys2Proof/Machine/Timer.lean ====
section
/-! DEFINITION. Timer instructions: FX07, FX15, FX18 (spec/47_timer.md). The timer step of the same tick comes after
them (rule R129), in Machine/Cycle.lean. -/
namespace Sys2Proof.Machine

/-- FX07 `LD Vx, DT` (rule R230). -/
def execLdRegDt (x : Reg) (s : State) : Result := .next (s.setReg x s.dt).advance

/-- FX15 `LD DT, Vx` (rule R231). -/
def execLdDtReg (x : Reg) (s : State) : Result := .next (s.setDt (s.reg x)).advance

/-- FX18 `LD ST, Vx` (rule R232). -/
def execLdStReg (x : Reg) (s : State) : Result := .next (s.setSt (s.reg x)).advance

end Sys2Proof.Machine
end

