-- ==== Sys2Proof/Machine/Cycle.lean ====
section
/-! DEFINITION. One tick (rule R122) and the host's events (rules R120, R221, R300, R303, R304). -/
namespace Sys2Proof.Machine

/-- One tick: fetch, decode, execute, commit, timers; the first fault met ends it (rules R122, R279). -/
def tick (s : State) : Result :=
  match fetch s with
  | .error f => raise f
  | .ok w =>
    match decodeWord w with
    | none => raise (.unrecognizedInstruction w s.pc)
    | some i => timersAfter (exec i s)

/-- `timer_tick` (rule R128): one timer step and nothing else; under `perTick` the event does not exist. -/
def hostTimerTick (s : State) : Result :=
  match s.params.timerPolicy with
  | .perTick => .refused .timerTickUnderPerTick
  | .decoupled => .next s.timerStep

/-- `reset` (rules R300, R39): every piece of state of rule R20 to its reset value. The parameters, the inputs and
the host's remaining events are not state of the block and stay. -/
def hostReset (s : State) : State :=
  { State.reset with
    params := s.params, keys := s.keys, randQueue := s.randQueue, draws := s.draws, hostQueue := s.hostQueue }

/-- `load(rom)` (rules R303, R304): a reset, then the ROM from 0x200 up; a longer ROM than 3584 bytes is rejected
and nothing changes, not even by a reset. -/
def hostLoad (rom : List Byte) (s : State) : State :=
  if rom.length ≤ Config.progMax then
    (hostReset s).setMem ((hostReset s).mem.writeBytes Config.progBase rom)
  else s

/-- `press(k)` and `release(k)` (rule R221): the key line changes; a key above 15 is rejected. -/
def hostSetKey (k : Nat) (down : Bool) (s : State) : State := s.setKeys (s.keys.setIfInBounds k down)

/-- What an event does, from its start to its end (rules R120, R121). -/
def runEvent (e : HostEvent) (s : State) : Result :=
  match e with
  | .tick => tick s
  | .timerTick => hostTimerTick s
  | .reset => .next (hostReset s)
  | .load rom => .next (hostLoad rom s)
  | .press k => .next (hostSetKey k true s)
  | .release k => .next (hostSetKey k false s)

/-- The event the host starts next: the oldest pending one, else a tick. -/
def State.nextEvent (s : State) : HostEvent := s.hostQueue.head?.getD .tick

/-- The state once the host has started its next event. -/
def State.eventTaken (s : State) : State := { s with hostQueue := s.hostQueue.tail }

/-- The address `withFetchWord` stores the instruction at: PC where both its bytes can be fetched, else 0x200. -/
def State.fetchAddress (s : State) : Word := if s.pc.toNat < Config.addrMax then s.pc else 0x0200

/-- The host's events with a tick next: unchanged where a tick is next already. -/
def State.queueWithTickNext (s : State) : List HostEvent :=
  if s.nextEvent = .tick then s.hostQueue else .tick :: s.hostQueue

end Sys2Proof.Machine
end

