-- ==== Sys2Proof/Machine/Step.lean ====
section
/-! DEFINITION. One step: the host's next event, a tick where none is pending (rule R120). -/
namespace Sys2Proof.Machine

def step (s : State) : Host.Outcome State Fault Refusal := runEvent s.nextEvent s.eventTaken

/-- `s` with an instruction stored where the next step fetches it, high byte first (rule R60), and a tick next. -/
def State.withFetchWord (s : State) (nbits w : Nat) : State :=
  { s with
    mem := s.mem.writeBytes s.fetchAddress.toNat
      [highByte (BitVec.ofNat 16 (w % 2 ^ nbits)), lowByte (BitVec.ofNat 16 (w % 2 ^ nbits))]
    pc := s.fetchAddress
    hostQueue := s.queueWithTickNext }

end Sys2Proof.Machine
end

