-- ==== Sys2Proof/Safety.lean ====
section
/-! DEFINITION. What claims are stated in: the invariant of rule R38, a safe run, the faults rule R291 allows an
instruction, the registers rules R21 and R33 let it write, and what it leaves unchanged (its frame). -/
namespace Sys2Proof.Machine

/-! ### The invariant -/

/-- What holds in every state reachable from a reset (rule R38): memory is in canonical form inside the 4096 cells,
`SP <= STACK_DEPTH`, every stack entry in use is at most 4096, `PC <= 0x10FE`. The widths of DT, ST and FB hold by
their types. -/
structure State.Inv (s : State) : Prop where
  memWf        : s.mem.wf
  stackBound   : s.sp ≤ s.params.stackDepth
  stackEntries : ∀ a ∈ s.stack, a.toNat ≤ 4096
  pcBound      : s.pc.toNat ≤ 0x10FE

/-! ### Safe runs -/

/-- The step from `s` ends in a next state: no fault is reported and no move is refused. -/
def StepSafe (s : State) : Prop := ∃ t, step s = .next t

/-- The first `n` steps from `s` are all safe. The first fault is the end of a run (rule R281). -/
def RunSafe (n : Nat) (s : State) : Prop := ∃ t, core.run n s = .next t

/-- The state an outcome goes on in. -/
def nextState : Result → Option State
  | .next s => some s
  | _ => none

/-- The fault an outcome reports. -/
def reportedFault : Result → Option Fault
  | .fault f => some f
  | _ => none

/-! ### Which instruction can raise what (rule R291) -/

/-- The fault of the execute phase, by the table of rule R291; the address is rule R64's. -/
def executeFault (s : State) : Instr → Option Fault
  | .ret => if s.sp = 0 then some .stackUnderflow else none
  | .call _ => if s.sp = s.params.stackDepth then some .stackOverflow else none
  | .drw _ _ n => if 1 ≤ n ∧ 4095 < s.i.toNat + n - 1 then outOfBounds else none
  | .ldBcd _ => if 4095 < s.i.toNat + 2 then outOfBounds else none
  | .storeRegs x | .loadRegs x => if 4095 < s.i.toNat + x.val then outOfBounds else none
  | .skp x | .sknp x => if 15 < (s.reg x).toNat then some (.keyIndexOutOfRange (s.reg x)) else none
  | _ => none
where
  outOfBounds : Option Fault := some (.memoryOutOfBounds (if 4095 < s.i.toNat then s.i.toNat else 4096))

/-! ### Which registers an instruction may write (rules R21, R33) -/

/-- "write `V[X]`" and "write `V[0]` to `V[X]`" of rule R21. -/
def writesReg (i : Instr) (r : Reg) : Bool :=
  match i with
  | .ldImm x _ | .addImm x _ | .rnd x _ => r = x
  | .ldReg x _ | .orReg x _ | .andReg x _ | .xorReg x _ => r = x
  | .addReg x _ | .subReg x _ | .shr x _ | .subn x _ | .shl x _ => r = x
  | .ldRegDt x | .ldRegKey x => r = x
  | .loadRegs x => r ≤ x
  | _ => false

/-- "write VF as a flag" of rule R21; the list of rule R33. -/
def writesFlag : Instr → Bool
  | .addReg _ _ | .subReg _ _ | .shr _ _ | .subn _ _ | .shl _ _ | .drw _ _ _ | .addI _ => true
  | _ => false

/-- The instructions whose rule contains `pc <- target` (the list of rule R126); every other one leaves `P + 2`. -/
def redirects : Instr → Bool
  | .ret | .jp _ | .call _ | .jpV0 _ | .seImm _ _ | .sneImm _ _ | .seReg _ _ | .sneReg _ _ | .skp _ | .sknp _
  | .ldRegKey _ => true
  | _ => false

/-! ### Reset values -/

/-- The registers, timers, stack and framebuffer have the values of rule R39. -/
structure HasResetValues (s : State) : Prop where
  regs   : ∀ r, s.reg r = 0
  index  : s.i = 0
  pc     : s.pc = 0x0200
  stack  : s.stack = []
  timers : s.dt = 0 ∧ s.st = 0
  screen : ∀ x y, s.pixel x y = false

/-- A memory byte after a reset: the font of rule R31 from 0x000 to 0x04F, 0x00 above it (rules R39, R66). -/
def resetByte (a : Nat) : Byte := if a < 80 then Config.font.getD a 0 else 0

/-! ### Sprites -/

/-- A bit of 1 of the sprite of `n` rows at I lands on cell (cx, cy) when drawn at `(V[X], V[Y])` (rules R201, R203,
R204). -/
def SpriteHits (s : State) (x y : Reg) (n cx cy : Nat) : Prop :=
  ∃ r < n, ∃ c < 8, (s.byteAt (s.base + r)).getLsbD (7 - c) = true ∧
    cx = ((s.reg x).toNat + c) % 64 ∧ cy = ((s.reg y).toNat + r) % 32

/-! ### Frames -/

/-- The parts of a state a frame can let change; registers are named one by one, PC is always left open. -/
inductive Part where
  | index | memory | stack | delayTimer | soundTimer | screen | randomInput
  deriving DecidableEq, Repr

/-- From `s` to `t`: every register outside `written`, every part outside `parts`, the parameters, the key lines and
the host's pending events are unchanged. Memory is compared byte by byte, the screen cell by cell. -/
structure FrameExcept (written : Reg → Prop) (parts : List Part) (s t : State) : Prop where
  regs        : ∀ r, ¬ written r → t.reg r = s.reg r
  index       : .index ∉ parts → t.i = s.i
  memory      : .memory ∉ parts → ∀ a, t.byteAt a = s.byteAt a
  stack       : .stack ∉ parts → t.stack = s.stack
  delayTimer  : .delayTimer ∉ parts → t.dt = s.dt
  soundTimer  : .soundTimer ∉ parts → t.st = s.st
  screen      : .screen ∉ parts → ∀ x y, t.pixel x y = s.pixel x y
  randomInput : .randomInput ∉ parts → t.randQueue = s.randQueue ∧ t.draws = s.draws
  params      : t.params = s.params
  keys        : t.keys = s.keys
  hostQueue   : t.hostQueue = s.hostQueue

/-- Nothing but PC changes. -/
abbrev OnlyPcChanges (s t : State) : Prop := FrameExcept (fun _ => False) [] s t

/-- The outcome of a flag-writing ALU operation: `result` in `V[X]`, `flag` in VF where X is not 15, PC two further,
and nothing else changed. -/
def FlaggedResult (i : Instr) (x : Reg) (result flag : Nat) (s : State) : Prop :=
  ∃ t, exec i s = .next t ∧ (t.reg x).toNat = result ∧ (x ≠ regVF → (t.reg regVF).toNat = flag) ∧
    t.pc = s.pc + 2 ∧ FrameExcept (fun r => r = x ∨ r = regVF) [] s t

/-- Every byte outside the `n` bytes from `base` up reads as before. -/
def BytesKeptOutside (base n : Nat) (s t : State) : Prop :=
  ∀ a, a < base ∨ base + n ≤ a → t.byteAt a = s.byteAt a

end Sys2Proof.Machine
end

