-- ==== Sys2Proof/Certificates/Slice0/Obligations.lean ====
section
/-! DEFINITION. The statements for the provers. Each docstring says what the statement claims and which rules of the spec
it formalises; where it rests on a choice of the spec or of the model, it says so. -/

open Sys2Proof Sys2Proof.Machine

/-- Decoding the bytes of an encoded well-formed instruction gives it back. For every well-formed instruction, with
every operand at every value its field admits (the ignored Y of 8XY6 and 8XYE included), decoding its two bytes,
high byte first, gives exactly that instruction and the bytes after it. (R91, R92, R95, R96, R99) -/
def Obligations.EncodeThenDecodeGivesTheInstruction : Prop :=
  ∀ (i : Instr) (rest : List Byte), i.wellFormed = true →
    decodeBytes (highByte (encode i) :: lowByte (encode i) :: rest) = .ok (i, rest)

/-- A decoded opcode gives a well-formed instruction that encodes to the same opcode. Every opcode value that decodes to
an instruction decodes to a well-formed one, and encoding that instruction gives the same 16 bits: no operand bit is
dropped and each opcode has one meaning. (R91, R93, R95, R96) -/
def Obligations.DecodeThenEncodeGivesTheOpcode : Prop :=
  ∀ (w : Word) (i : Instr), decodeWord w = some i → i.wellFormed = true ∧ encode i = w

/-- Decoding by nibbles selects exactly the one row of the opcode map whose mask and match select the opcode. For every
opcode w the decoder's instruction belongs to the row of rule R96 with w AND mask = match, and to none when no row
matches; no opcode matches two rows; there are 35 rows; and a tick that fetches an opcode no row selects raises
UnrecognizedInstruction with the opcode and PC. (R95) -/
def Obligations.DecodeSelectsTheRowOfTheOpcodeMap : Prop :=
  (∀ w : Word, (decodeWord w).map Instr.pattern = (opcodeRows.find? fun r => r.selects w).map OpcodeRow.pattern) ∧
  (∀ (w : Word) (r q : OpcodeRow), r ∈ opcodeRows → q ∈ opcodeRows → r.selects w = true → q.selects w = true → r = q) ∧
  opcodeRows.length = 35 ∧
  (∀ (s : State) (w : Word), s.nextEvent = .tick → s.pc.toNat ≤ 4094 →
    w = wordOfBytes (s.byteAt s.pc.toNat) (s.byteAt (s.pc.toNat + 1)) → (∀ r ∈ opcodeRows, r.selects w = false) →
    step s = .fault (.unrecognizedInstruction w s.pc))

/-- The opcodes that decode to nothing are exactly the illegal ones listed by family. An opcode decodes to no
instruction exactly when it is 0NNN other than 00E0, 00EE and 00FF, or 5XYN or 9XYN with N above 0, or 8XYN with N
in 8 to D or F, or EXNN with NN not 9E or A1, or FXNN with NN not one of the nine listed. That family 0 is matched
on all 16 bits and that N must be 0 in families 5 and 9 are the spec's own choices (decision D17, conflict C2).
(R97, R94, 92_eei_decisions.md D17, 90_conflicts.md C2) -/
def Obligations.IllegalOpcodesAreTheOnesListed : Prop :=
  ∀ w : Word, decodeWord w = none ↔
    (fieldOP w = 0x0 ∧ w ∉ [0x00E0, 0x00EE, 0x00FF]) ∨
    (fieldOP w = 0x5 ∧ fieldN w ≠ 0x0) ∨
    (fieldOP w = 0x8 ∧ fieldN w ∈ [0x8, 0x9, 0xA, 0xB, 0xC, 0xD, 0xF]) ∨
    (fieldOP w = 0x9 ∧ fieldN w ≠ 0x0) ∨
    (fieldOP w = 0xE ∧ fieldNN w ∉ [0x9E, 0xA1]) ∨
    (fieldOP w = 0xF ∧ fieldNN w ∉ [0x07, 0x0A, 0x15, 0x18, 0x1E, 0x29, 0x33, 0x55, 0x65])

/-- Opcodes of every format written out from the encoding table decode to the instructions they stand for. At least one
opcode of each of the six formats Z, A, XI, XY, XYN and XF, eight in all and taken from the decode vectors of the
spec, decodes to its instruction with its operands. A word for every instruction is in the model's own tests.
(95_test_vectors.md section 2.1, R92, R96) -/
def Obligations.WrittenOutOpcodesDecode : Prop :=
  decodeWord 0x00EE = some .ret ∧ decodeWord 0x1ABC = some (.jp 0xABC) ∧ decodeWord 0x3A7F = some (.seImm 10 0x7F) ∧
  decodeWord 0x5AB0 = some (.seReg 10 11) ∧ decodeWord 0x8ABE = some (.shl 10 11) ∧
  decodeWord 0xD12F = some (.drw 1 2 15) ∧ decodeWord 0xE5A1 = some (.sknp 5) ∧ decodeWord 0xFF65 = some (.loadRegs 15)

/-- A step executes the instruction decoded from the two bytes at PC, then does the timer step. When the host's next
event is a tick and the two bytes at PC decode to i, the step is exec of i on the state with that event taken: an Ok
outcome is followed by one count down of both timers under per_tick and by nothing under decoupled; a fault of i is
the outcome of the step. That the timer step comes last and that a faulting tick does none are the spec's own
choices (decision D3). (R120, R122, R125, R126, R129, R130) -/
def Obligations.StepRunsTheDecodedInstruction : Prop :=
  ∀ (s : State) (i : Instr), s.nextEvent = .tick → s.pc.toNat ≤ 4094 →
    decodeWord (wordOfBytes (s.byteAt s.pc.toNat) (s.byteAt (s.pc.toNat + 1))) = some i →
    (∀ t, exec i s.eventTaken = .next t →
      (s.params.timerPolicy = .perTick →
        step s = .next { t with dt := BitVec.ofNat 8 (t.dt.toNat - 1), st := BitVec.ofNat 8 (t.st.toNat - 1) }) ∧
      (s.params.timerPolicy = .decoupled → step s = .next t)) ∧
    (∀ f, exec i s.eventTaken = .fault f → step s = .fault f)

/-- The fetch is big-endian, has no alignment check, and faults when a byte of it lies above 4095. With PC at most 4094,
odd values included, the fetched opcode is 256 times the byte at PC plus the byte at PC + 1. With PC above 4095 a
tick raises MemoryOutOfBounds(PC); with PC = 4095 it raises MemoryOutOfBounds(4096). Which address is reported is
decision D10, that an odd PC is accepted is decision D11. (R60, R123, 92_eei_decisions.md D10, 92_eei_decisions.md
D11) -/
def Obligations.FetchReadsTwoBytesOrFaults : Prop :=
  (∀ s : State, s.pc.toNat ≤ 4094 →
    ∃ w, fetch s = .ok w ∧ w.toNat = 256 * (s.byteAt s.pc.toNat).toNat + (s.byteAt (s.pc.toNat + 1)).toNat) ∧
  (∀ s : State, s.nextEvent = .tick → 4095 < s.pc.toNat → step s = .fault (.memoryOutOfBounds s.pc.toNat)) ∧
  (∀ s : State, s.nextEvent = .tick → s.pc.toNat = 4095 → step s = .fault (.memoryOutOfBounds 4096))

/-- A tick on an opcode that matches no decode rule raises UnrecognizedInstruction with the opcode and PC. When the next
event is a tick and the two bytes at PC decode to nothing, the step is the fault UnrecognizedInstruction, code 1,
carrying the fetched opcode and PC. The code number is the spec's own label (decision D15). (R271,
92_eei_decisions.md D15) -/
def Obligations.IllegalOpcodeReportsOpcodeAndPc : Prop :=
  ∀ s : State, s.nextEvent = .tick → s.pc.toNat ≤ 4094 →
    decodeWord (wordOfBytes (s.byteAt s.pc.toNat) (s.byteAt (s.pc.toNat + 1))) = none →
    ∃ w, w.toNat = 256 * (s.byteAt s.pc.toNat).toNat + (s.byteAt (s.pc.toNat + 1)).toNat ∧
      step s = .fault (.unrecognizedInstruction w s.pc) ∧ (Fault.unrecognizedInstruction w s.pc).code = 1

/-- Every Ok tick counts both timers down once under per_tick and never under decoupled, whatever it executes. For a
tick that executes i and ends Ok: under per_tick DT ends one less than it began, or at 0, unless i is FX15, when it
ends one less than V[X], or at 0; the same for ST and FX18. Under decoupled DT and ST are unchanged but for the
value FX15 or FX18 writes. A tick in which FX0A waits is no exception. Two of these points are the spec's own
choices, both in log entry 10: that the step comes after the instruction (decision D3) and that it is done while
FX0A waits (decision D4). (R29, R128, R129, R131, R230, R231, R232, 92_eei_decisions.md D3, 92_eei_decisions.md D4) -/
def Obligations.TimersCountDownOncePerOkTick : Prop :=
  ∀ (s t : State) (i : Instr), s.nextEvent = .tick → s.pc.toNat ≤ 4094 →
    decodeWord (wordOfBytes (s.byteAt s.pc.toNat) (s.byteAt (s.pc.toNat + 1))) = some i → step s = .next t →
    (s.params.timerPolicy = .perTick →
      (∀ x, i = .ldDtReg x → t.dt.toNat = (s.reg x).toNat - 1) ∧
      ((∀ x, i ≠ .ldDtReg x) → t.dt.toNat = s.dt.toNat - 1) ∧
      (∀ x, i = .ldStReg x → t.st.toNat = (s.reg x).toNat - 1) ∧
      ((∀ x, i ≠ .ldStReg x) → t.st.toNat = s.st.toNat - 1)) ∧
    (s.params.timerPolicy = .decoupled →
      (∀ x, i = .ldDtReg x → t.dt = s.reg x) ∧ ((∀ x, i ≠ .ldDtReg x) → t.dt = s.dt) ∧
      (∀ x, i = .ldStReg x → t.st = s.reg x) ∧ ((∀ x, i ≠ .ldStReg x) → t.st = s.st))

/-- The host's timer_tick counts both timers down once, changes nothing else, and exists under decoupled only. Under
decoupled a timer_tick event leaves DT and ST each one less, or at 0, and changes nothing else but that the event is
taken. Under per_tick the event does not exist and the model refuses it by name. (R29, R120, R128,
92_eei_decisions.md D2) -/
def Obligations.TimerTickStepsOnlyTheTimers : Prop :=
  (∀ s : State, s.nextEvent = .timerTick → s.params.timerPolicy = .decoupled →
    ∃ t, step s = .next t ∧ t.dt.toNat = s.dt.toNat - 1 ∧ t.st.toNat = s.st.toNat - 1 ∧
      t = { s with dt := t.dt, st := t.st, hostQueue := s.hostQueue.tail }) ∧
  (∀ s : State, s.nextEvent = .timerTick → s.params.timerPolicy = .perTick → step s = .refused .timerTickUnderPerTick)

/-- The state after reset holds the values the spec lists. State.reset has every register 0, I 0, PC 0x0200, an empty
stack, both timers 0, every cell off, the font at 0x000 to 0x04F and 0x00 in every other cell. The values of I, of
0x050 to 0x1FF and of the framebuffer are the spec's own choice (decision D13), as are the font bytes (decision
D21). (R39, R31, R66, 92_eei_decisions.md D13, 92_eei_decisions.md D21) -/
def Obligations.ResetStateHoldsTheResetValues : Prop :=
  HasResetValues State.reset ∧ (∀ a < 4096, State.reset.byteAt a = resetByte a) ∧
  State.reset.byteAt 0x000 = 0xF0 ∧ State.reset.byteAt 0x04F = 0x80

/-- A reset from any state installs the reset values and leaves the key lines alone. From every state, a reset event
cannot fail and gives a state with the reset values and the font back in memory; the key lines, the random input and
the parameters are untouched and only the event is taken from the host's queue. Some reset values are the spec's own
choice (decision D13). (R300, R39, R221, 92_eei_decisions.md D13) -/
def Obligations.HostResetReinstallsTheResetValues : Prop :=
  ∀ s : State, s.nextEvent = .reset →
    ∃ t, step s = .next t ∧ HasResetValues t ∧ (∀ a < 4096, t.byteAt a = resetByte a) ∧ t.keys = s.keys ∧
      t.params = s.params ∧ t.randQueue = s.randQueue ∧ t.draws = s.draws ∧ t.hostQueue = s.hostQueue.tail

/-- A load is a reset followed by a copy of the ROM to 0x200. From every state, a load of at most 3584 bytes gives the
reset values, byte j of the ROM at 0x200 + j, and the reset contents everywhere else; the key lines and the
parameters are untouched. Some reset values are the spec's own choice (decision D13). (R303, R39,
92_eei_decisions.md D13) -/
def Obligations.LoadCopiesTheRomAfterAReset : Prop :=
  ∀ (s : State) (rom : List Byte), s.nextEvent = .load rom → rom.length ≤ 3584 →
    ∃ t, step s = .next t ∧ HasResetValues t ∧
      (∀ (j : Nat) (h : j < rom.length), t.byteAt (0x200 + j) = rom[j]) ∧
      (∀ a < 4096, a < 0x200 ∨ 0x200 + rom.length ≤ a → t.byteAt a = resetByte a) ∧
      t.keys = s.keys ∧ t.params = s.params ∧ t.hostQueue = s.hostQueue.tail

/-- A load of more than 3584 bytes is rejected before mutating state. From every state, a load of more than 3584 bytes
changes nothing: no reset, no byte copied; only the event is taken from the host's queue. (R304, R278) -/
def Obligations.LoadLongerThanMemoryDoesNothing : Prop :=
  ∀ (s : State) (rom : List Byte), s.nextEvent = .load rom → 3584 < rom.length → step s = .next s.eventTaken

/-- press and release change the one key line named, and nothing for a key above 15. A press of key k sets key line k
and a release clears it, for k at most 15; every other line and all the rest of the state stay; for k above 15
nothing changes. That the keypad's flags are input lines of the host is decision D22. (R221, R220,
92_eei_decisions.md D22) -/
def Obligations.HostDrivesOneKeyLine : Prop :=
  ∀ (s : State) (k : Nat) (down : Bool), s.nextEvent = (if down then .press k else .release k) →
    ∃ t, step s = .next t ∧ t = { s with keys := t.keys, hostQueue := s.hostQueue.tail } ∧
      (∀ j : Fin 16, t.keys[j.val] = if j.val = k then down else s.keys[j.val])

/-- The host reads 2048 cells row-major: cell (x, y) at index 64 * y + x. The grid the host reads has 2048 cells and the
cell in column x and row y stands at index 64 * y + x; beside it the host reads ST and DT. (R32, R132) -/
def Obligations.HostReadsTheGridRowMajor : Prop :=
  ∀ s : State, s.hostView.cells.length = 2048 ∧
    (∀ x < 64, ∀ y < 32, s.hostView.cells[64 * y + x]? = some (s.pixel x y)) ∧
    s.hostView.soundTimer = s.st ∧ s.hostView.delayTimer = s.dt

/-- 00E0 turns every cell off, advances PC by 2 and changes nothing else. Opcode 0x00E0 decodes to CLS; from every state
it completes with all cells off and PC two further; no register (VF included), I, memory, stack, timer or input
changes. (R200, R202) -/
def Obligations.ClearScreenTurnsEveryCellOff : Prop :=
  decodeWord 0x00E0 = some .cls ∧
  ∀ s : State, ∃ t, exec .cls s = .next t ∧ (∀ x y, t.pixel x y = false) ∧ t.pc = s.pc + 2 ∧
    FrameExcept (fun _ => False) [.screen] s t

/-- 00FF is accepted and changes no state but PC; its neighbours are illegal. Opcode 0x00FF decodes to MODESW; from
every state it completes with PC two further and nothing else changed; a tick that executes it steps the timers
under per_tick. 0x01FF, 0x00FE and 0x00FD are illegal. (R260) -/
def Obligations.ModeSwitchOnlyAdvancesPc : Prop :=
  decodeWord 0x00FF = some .modesw ∧ decodeWord 0x01FF = none ∧ decodeWord 0x00FE = none ∧ decodeWord 0x00FD = none ∧
  (∀ s : State, exec .modesw s = .next { s with pc := s.pc + 2 }) ∧
  (∀ s : State, s.nextEvent = .tick → s.pc.toNat ≤ 4094 → s.byteAt s.pc.toNat = 0x00 →
    s.byteAt (s.pc.toNat + 1) = 0xFF → s.params.timerPolicy = .perTick →
    step s = .next { s with
      pc := s.pc + 2, hostQueue := s.hostQueue.tail,
      dt := BitVec.ofNat 8 (s.dt.toNat - 1), st := BitVec.ofNat 8 (s.st.toNat - 1) })

/-- 1NNN sets PC to NNN, any value of it, and changes nothing else. For every NNN, odd ones and 0xFFF included, opcode
1NNN decodes to JP; from every state it completes with PC equal to NNN and nothing else changed. (R151) -/
def Obligations.JumpSetsPc : Prop :=
  ∀ nnn : BitVec 12, decodeWord (formatA 0x1 nnn) = some (.jp nnn) ∧
    ∀ s : State, ∃ t, exec (.jp nnn) s = .next t ∧ t.pc.toNat = nnn.toNat ∧ OnlyPcChanges s t

/-- 2NNN pushes P + 2 and jumps to NNN, or raises StackOverflow when the stack is full. For every NNN, opcode 2NNN
decodes to CALL. With SP not equal to STACK_DEPTH it completes with P + 2 (modulo 65536) pushed as the newest entry,
SP one more, PC equal to NNN and nothing else changed. With SP = STACK_DEPTH it raises StackOverflow. This holds for
every STACK_DEPTH. (R27, R152) -/
def Obligations.CallPushesTheReturnAddress : Prop :=
  ∀ nnn : BitVec 12, decodeWord (formatA 0x2 nnn) = some (.call nnn) ∧
    (∀ s : State, s.sp ≠ s.params.stackDepth →
      ∃ t a, exec (.call nnn) s = .next t ∧ t.stack = s.stack ++ [a] ∧ a.toNat = (s.pc.toNat + 2) % 65536 ∧
        t.sp = s.sp + 1 ∧ t.pc.toNat = nnn.toNat ∧ FrameExcept (fun _ => False) [.stack] s t) ∧
    (∀ s : State, s.sp = s.params.stackDepth →
      exec (.call nnn) s = .fault .stackOverflow)

/-- 00EE pops the newest return address into PC, or raises StackUnderflow when the stack is empty. Opcode 0x00EE decodes
to RET. With entries in use it completes with PC equal to the newest one, whatever its value (0x0000 included), that
entry removed, SP one less and nothing else changed. With SP = 0 it raises StackUnderflow. (R28, R150) -/
def Obligations.ReturnPopsTheNewestAddress : Prop :=
  decodeWord 0x00EE = some .ret ∧
  (∀ (s : State) (rest : List Word) (a : Word), s.stack = rest ++ [a] →
    ∃ t, exec .ret s = .next t ∧ t.pc = a ∧ t.stack = rest ∧ t.sp + 1 = s.sp ∧
      FrameExcept (fun _ => False) [.stack] s t) ∧
  (∀ s : State, s.sp = 0 → exec .ret s = .fault .stackUnderflow)

/-- A call followed by a return comes back to the instruction after the call with the stack as it was. After a CALL that
completes, a RET from any state with the stack the CALL left completes with PC two past the CALL and with the stack
the CALL found. (R150, R152, 95_test_vectors.md S5) -/
def Obligations.CallThenReturnRestoresPcAndStack : Prop :=
  ∀ (s t u : State) (nnn : BitVec 12), exec (.call nnn) s = .next t → u.stack = t.stack →
    ∃ q, exec .ret u = .next q ∧ q.pc = s.pc + 2 ∧ q.stack = s.stack

/-- BNNN sets PC to NNN + V0, not cut to 12 bits, and changes nothing else. For every NNN, opcode BNNN decodes to JP V0;
from every state it completes with PC equal to the exact sum of NNN and V0, which is at most 0x10FE, and nothing
else changed. (R153) -/
def Obligations.JumpIndexedAddsV0 : Prop :=
  ∀ nnn : BitVec 12, decodeWord (formatA 0xB nnn) = some (.jpV0 nnn) ∧
    ∀ s : State, ∃ t, exec (.jpV0 nnn) s = .next t ∧ t.pc.toNat = nnn.toNat + (s.reg 0).toNat ∧
      t.pc.toNat ≤ 0x10FE ∧ OnlyPcChanges s t

/-- 3XNN and 4XNN skip on equality and on inequality with the immediate, changing PC only. For every X and NN, 3XNN
leaves PC four further when V[X] = NN and two further otherwise; 4XNN the other way round; nothing else changes and
neither can fault. (R160, R161) -/
def Obligations.SkipsOnAnImmediateCompareOneRegister : Prop :=
  ∀ (x : Reg) (nn : Byte),
    decodeWord (formatXI 0x3 x nn) = some (.seImm x nn) ∧ decodeWord (formatXI 0x4 x nn) = some (.sneImm x nn) ∧
    ∀ s : State,
      (∃ t, exec (.seImm x nn) s = .next t ∧ t.pc = (if s.reg x = nn then s.pc + 4 else s.pc + 2) ∧ OnlyPcChanges s t) ∧
      (∃ t, exec (.sneImm x nn) s = .next t ∧ t.pc = (if s.reg x = nn then s.pc + 2 else s.pc + 4) ∧ OnlyPcChanges s t)

/-- 5XY0 and 9XY0 skip on equality and on inequality of two registers, changing PC only. For every X and Y, 5XY0 leaves
PC four further when V[X] = V[Y] and two further otherwise; 9XY0 the other way round; nothing else changes, neither
can fault in execute, and with N from 1 to 15 both patterns are illegal. (R162, R163) -/
def Obligations.SkipsOnTwoRegistersCompareThem : Prop :=
  ∀ (x y : Reg),
    (∀ n : BitVec 4, decodeWord (formatXYN 0x5 x y n) = if n = 0 then some (.seReg x y) else none) ∧
    (∀ n : BitVec 4, decodeWord (formatXYN 0x9 x y n) = if n = 0 then some (.sneReg x y) else none) ∧
    ∀ s : State,
      (∃ t, exec (.seReg x y) s = .next t ∧ t.pc = (if s.reg x = s.reg y then s.pc + 4 else s.pc + 2) ∧
        OnlyPcChanges s t) ∧
      (∃ t, exec (.sneReg x y) s = .next t ∧ t.pc = (if s.reg x = s.reg y then s.pc + 2 else s.pc + 4) ∧
        OnlyPcChanges s t)

/-- 6XNN writes NN to V[X] and changes nothing else. For every X (15 included) and NN, opcode 6XNN decodes to LD; from
every state it completes with V[X] = NN, PC two further and nothing else changed. (R170) -/
def Obligations.LoadImmediateWritesTheByte : Prop :=
  ∀ (x : Reg) (nn : Byte), decodeWord (formatXI 0x6 x nn) = some (.ldImm x nn) ∧
    ∀ s : State, ∃ t, exec (.ldImm x nn) s = .next t ∧ t.reg x = nn ∧ t.pc = s.pc + 2 ∧ FrameExcept (· = x) [] s t

/-- 7XNN adds NN to V[X] modulo 256, writes no flag and changes nothing else. For every X and NN, opcode 7XNN decodes to
ADD; from every state it completes with V[X] equal to the sum modulo 256, PC two further and nothing else changed,
so VF only when X = 15. (R171) -/
def Obligations.AddImmediateWrapsAndWritesNoFlag : Prop :=
  ∀ (x : Reg) (nn : Byte), decodeWord (formatXI 0x7 x nn) = some (.addImm x nn) ∧
    ∀ s : State, ∃ t, exec (.addImm x nn) s = .next t ∧ (t.reg x).toNat = ((s.reg x).toNat + nn.toNat) % 256 ∧
      t.pc = s.pc + 2 ∧ FrameExcept (· = x) [] s t

/-- ANNN writes NNN to I and changes nothing else. For every NNN, opcode ANNN decodes to LD I; from every state it
completes with I equal to NNN, PC two further and nothing else changed. (R172) -/
def Obligations.LoadIndexWritesTheAddress : Prop :=
  ∀ nnn : BitVec 12, decodeWord (formatA 0xA nnn) = some (.ldI nnn) ∧
    ∀ s : State, ∃ t, exec (.ldI nnn) s = .next t ∧ t.i.toNat = nnn.toNat ∧ t.pc = s.pc + 2 ∧
      FrameExcept (fun _ => False) [.index] s t

/-- CXNN writes the byte drawn from the random input, masked with NN, and takes one byte. For every X and NN, opcode
CXNN decodes to RND. With a byte b queued on the random input it completes with V[X] = b AND NN and that byte taken;
with none queued, with V[X] = r AND NN for the free value r of this draw and one more draw counted; PC is two
further and nothing else changes. Where the byte comes from is decision D8; the two ways of supplying it are the
model's (notes/assumptions/4.md). (R37, R173, 92_eei_decisions.md D8) -/
def Obligations.RandomIsTheInputByteMasked : Prop :=
  ∀ (x : Reg) (nn : Byte), decodeWord (formatXI 0xC x nn) = some (.rnd x nn) ∧
    ∀ s : State,
      (∀ (b : Byte) (rest : List Byte), s.randQueue = b :: rest →
        ∃ t, exec (.rnd x nn) s = .next t ∧ t.reg x = b &&& nn ∧ t.randQueue = rest ∧ t.draws = s.draws ∧
          t.pc = s.pc + 2 ∧ FrameExcept (· = x) [.randomInput] s t) ∧
      (s.randQueue = [] →
        ∃ t, exec (.rnd x nn) s = .next t ∧ t.reg x = Config.randomByte s.draws &&& nn ∧ t.randQueue = [] ∧
          t.draws = s.draws + 1 ∧ t.pc = s.pc + 2 ∧ FrameExcept (· = x) [.randomInput] s t)

/-- 8XY0 to 8XY3 copy, OR, AND and XOR into V[X] and change nothing else. For every X and Y, equal ones and 15 included,
8XY0, 8XY1, 8XY2 and 8XY3 complete with V[X] equal to V[Y], V[X] OR V[Y], V[X] AND V[Y] and V[X] XOR V[Y] of the old
values, PC two further and nothing else changed, so VF only when X = 15. (R181, R182, R183, R184) -/
def Obligations.CopyAndBitwiseLeaveVFAlone : Prop :=
  ∀ (x y : Reg),
    decodeWord (formatXYN 0x8 x y 0x0) = some (.ldReg x y) ∧ decodeWord (formatXYN 0x8 x y 0x1) = some (.orReg x y) ∧
    decodeWord (formatXYN 0x8 x y 0x2) = some (.andReg x y) ∧ decodeWord (formatXYN 0x8 x y 0x3) = some (.xorReg x y) ∧
    ∀ s : State,
      (∃ t, exec (.ldReg x y) s = .next t ∧ t.reg x = s.reg y ∧ t.pc = s.pc + 2 ∧ FrameExcept (· = x) [] s t) ∧
      (∃ t, exec (.orReg x y) s = .next t ∧ (∀ k < 8, (t.reg x).getLsbD k = ((s.reg x).getLsbD k || (s.reg y).getLsbD k)) ∧
        t.pc = s.pc + 2 ∧ FrameExcept (· = x) [] s t) ∧
      (∃ t, exec (.andReg x y) s = .next t ∧ (∀ k < 8, (t.reg x).getLsbD k = ((s.reg x).getLsbD k && (s.reg y).getLsbD k)) ∧
        t.pc = s.pc + 2 ∧ FrameExcept (· = x) [] s t) ∧
      (∃ t, exec (.xorReg x y) s = .next t ∧ (∀ k < 8, (t.reg x).getLsbD k = ((s.reg x).getLsbD k ^^ (s.reg y).getLsbD k)) ∧
        t.pc = s.pc + 2 ∧ FrameExcept (· = x) [] s t)

/-- 8XY4, 8XY5 and 8XY7 write the result modulo 256 to V[X] and carry or no borrow to VF. For every X and Y and every
state, 8XY4, 8XY5 and 8XY7 complete with the sum, the difference and the reverse difference modulo 256 of the old
values in V[X], PC two further, and, where X is not 15, VF = 1 on carry (8XY4) or on no borrow (8XY5, 8XY7) and 0
otherwise; Y = 15 uses the old VF; nothing else changes. That with X = 15 the result stays in VF and the flag is
lost is the spec's own choice (decision D5, rule R180). (R180, R185, R186, R188, R191, 92_eei_decisions.md D5) -/
def Obligations.AddAndSubtractWriteResultAndFlag : Prop :=
  ∀ (x y : Reg),
    decodeWord (formatXYN 0x8 x y 0x4) = some (.addReg x y) ∧ decodeWord (formatXYN 0x8 x y 0x5) = some (.subReg x y) ∧
    decodeWord (formatXYN 0x8 x y 0x7) = some (.subn x y) ∧
    ∀ (s : State) (vx vy : Nat), vx = (s.reg x).toNat → vy = (s.reg y).toNat →
      FlaggedResult (.addReg x y) x ((vx + vy) % 256) (if 255 < vx + vy then 1 else 0) s ∧
      FlaggedResult (.subReg x y) x (if vy ≤ vx then vx - vy else vx + 256 - vy) (if vy ≤ vx then 1 else 0) s ∧
      FlaggedResult (.subn x y) x (if vx ≤ vy then vy - vx else vy + 256 - vx) (if vx ≤ vy then 1 else 0) s

/-- 8XY6 and 8XYE shift V[X] by one, put the dropped bit in VF and ignore Y. For every X and Y and every state, 8XY6
completes with V[X] halved and 8XYE with V[X] doubled modulo 256, PC two further, and, where X is not 15, VF equal
to the bit shifted out of the old V[X]; the value of V[Y] plays no part and nothing else changes. That with X = 15
the result stays in VF is the spec's own choice (decision D5, rule R180). (R180, R187, R189, R191, R99,
92_eei_decisions.md D5) -/
def Obligations.ShiftsWriteResultAndDroppedBit : Prop :=
  ∀ (x y : Reg),
    decodeWord (formatXYN 0x8 x y 0x6) = some (.shr x y) ∧ decodeWord (formatXYN 0x8 x y 0xE) = some (.shl x y) ∧
    ∀ (s : State) (vx : Nat), vx = (s.reg x).toNat →
      FlaggedResult (.shr x y) x (vx / 2) (vx % 2) s ∧ FlaggedResult (.shl x y) x (2 * vx % 256) (vx / 128) s

/-- DXYN toggles exactly the cells its sprite bits land on, wrapping on both axes, and VF is the collision. For every X,
Y and N whose rows lie in memory, and for N = 0 whatever I holds, DXYN completes; a cell changes exactly when some
bit of 1 of some row lands on it after reduction modulo 64 and 32; VF is 1 when such a cell was on before the draw
and 0 otherwise; PC is two further; nothing else changes, I and memory included. So the loop of draw_pixel calls
equals one XOR of the whole sprite. That VF is written 0 and that N = 0 draws nothing are decision D16. (R201, R203,
R204, R205, 92_eei_decisions.md D16) -/
def Obligations.DrawTogglesTheSpriteCells : Prop :=
  ∀ (x y : Reg) (n : Nat), n < 16 → ∀ s : State, (n = 0 ∨ s.base + n - 1 ≤ 4095) →
    ∃ t, exec (.drw x y n) s = .next t ∧
      (∀ cx < 64, ∀ cy < 32,
        (SpriteHits s x y n cx cy → t.pixel cx cy = !s.pixel cx cy) ∧
        (¬ SpriteHits s x y n cx cy → t.pixel cx cy = s.pixel cx cy)) ∧
      ((∃ cx < 64, ∃ cy < 32, SpriteHits s x y n cx cy ∧ s.pixel cx cy = true) → t.reg regVF = 1) ∧
      ((¬ ∃ cx < 64, ∃ cy < 32, SpriteHits s x y n cx cy ∧ s.pixel cx cy = true) → t.reg regVF = 0) ∧
      t.pc = s.pc + 2 ∧ FrameExcept (· = regVF) [.screen] s t

/-- DXYN with a row above 4095 raises MemoryOutOfBounds with the lowest offending address. With N from 1 to 15 and I + N
- 1 above 4095, DXYN raises MemoryOutOfBounds, code 2, with I when I is above 4095 and 4096 otherwise. Which address
is reported is decision D10, the code number decision D15. (R64, R204, R272, 92_eei_decisions.md D10,
92_eei_decisions.md D15) -/
def Obligations.DrawFaultsOnARowAboveMemory : Prop :=
  ∀ (x y : Reg) (n : Nat), n < 16 → ∀ s : State, 1 ≤ n → 4095 < s.base + n - 1 →
    exec (.drw x y n) s = .fault (.memoryOutOfBounds (if 4095 < s.base then s.base else 4096)) ∧
    ∀ a, (Fault.memoryOutOfBounds a).code = 2

/-- The same DXYN twice restores the framebuffer. After a DXYN that completes, the same DXYN from any state with that
framebuffer and with the same I, memory bytes, V[X] and V[Y] as before the first completes with the framebuffer as
it was before the first. (R206, R201, R204) -/
def Obligations.DrawingTwiceRestoresTheScreen : Prop :=
  ∀ (x y : Reg) (n : Nat), n < 16 → ∀ s t u : State, exec (.drw x y n) s = .next t → u.fb = t.fb → u.i = s.i →
    (∀ a, u.byteAt a = s.byteAt a) → u.reg x = s.reg x → u.reg y = s.reg y →
    ∃ q, exec (.drw x y n) u = .next q ∧ q.fb = s.fb

/-- EX9E and EXA1 skip on the key line V[X] names, and fault when V[X] is above 15. With V[X] at most 15, EX9E leaves PC
four further when that key is down and two further otherwise, EXA1 the other way round, and nothing else changes.
With V[X] above 15 and the policy fault both raise KeyIndexOutOfRange, code 5, with V[X]. That it is a fault is
decision D7, the code number decision D15. (R222, R223, R225, R274, 92_eei_decisions.md D7, 92_eei_decisions.md D15) -/
def Obligations.SkipsOnKeysReadTheNamedLine : Prop :=
  ∀ x : Reg, decodeWord (formatXI 0xE x 0x9E) = some (.skp x) ∧ decodeWord (formatXI 0xE x 0xA1) = some (.sknp x) ∧
    (∀ (s : State) (k : Fin 16), (s.reg x).toNat = k.val →
      (∃ t, exec (.skp x) s = .next t ∧ t.pc = (if s.keys[k.val] then s.pc + 4 else s.pc + 2) ∧ OnlyPcChanges s t) ∧
      (∃ t, exec (.sknp x) s = .next t ∧ t.pc = (if s.keys[k.val] then s.pc + 2 else s.pc + 4) ∧ OnlyPcChanges s t)) ∧
    (∀ s : State, 15 < (s.reg x).toNat → s.params.keyRangePolicy = .fault →
      exec (.skp x) s = .fault (.keyIndexOutOfRange (s.reg x)) ∧
      exec (.sknp x) s = .fault (.keyIndexOutOfRange (s.reg x)) ∧ (Fault.keyIndexOutOfRange (s.reg x)).code = 5)

/-- Under the key range policies mask and not_pressed, EX9E and EXA1 complete on a key number above 15. With V[X] above
15, the policy mask reads key line V[X] modulo 16 and the policy not_pressed treats the key as up; both instructions
then skip or advance by that reading and change PC only. These two policies are values of a parameter the spec names
and does not specify further; the model's reading of them is notes/assumptions/1.md. (R6, R225) -/
def Obligations.OtherKeyRangePoliciesReadALine : Prop :=
  ∀ (x : Reg) (s : State) (down : Bool), 15 < (s.reg x).toNat →
    (s.params.keyRangePolicy = .mask ∧
        (∃ k : Fin 16, k.val = (s.reg x).toNat % 16 ∧ down = s.keys[k.val]) ∨
      s.params.keyRangePolicy = .notPressed ∧ down = false) →
    (∃ t, exec (.skp x) s = .next t ∧ t.pc = (if down then s.pc + 4 else s.pc + 2) ∧ OnlyPcChanges s t) ∧
    (∃ t, exec (.sknp x) s = .next t ∧ t.pc = (if down then s.pc + 2 else s.pc + 4) ∧ OnlyPcChanges s t)

/-- FX0A leaves PC where it is while no key is down, and captures a key that is down otherwise. With every key up FX0A
completes with PC and everything else unchanged, so that the same instruction is fetched again. With a key down it
completes with V[X] the number of a key that is down, under KEY_SELECT = lowest the lowest-numbered one, PC two
further and nothing else changed. Levels and the lowest key are decision D6. (R224, R226, R131, 92_eei_decisions.md
D6) -/
def Obligations.KeyWaitRefetchesOrCapturesAKey : Prop :=
  ∀ x : Reg, decodeWord (formatXI 0xF x 0x0A) = some (.ldRegKey x) ∧
    (∀ s : State, (∀ k : Fin 16, s.keys[k.val] = false) →
      ∃ t, exec (.ldRegKey x) s = .next t ∧ t.pc = s.pc ∧ OnlyPcChanges s t) ∧
    (∀ s : State, (∃ k : Fin 16, s.keys[k.val] = true) →
      ∃ t, ∃ k : Fin 16, exec (.ldRegKey x) s = .next t ∧ s.keys[k.val] = true ∧ (t.reg x).toNat = k.val ∧
        (s.params.keySelect = .lowest → ∀ j : Fin 16, j < k → s.keys[j.val] = false) ∧
        t.pc = s.pc + 2 ∧ FrameExcept (· = x) [] s t)

/-- FX07 reads DT, FX15 writes DT, FX18 writes ST, each changing nothing else before the timer step. For every X, FX07
completes with V[X] = DT, FX15 with DT = V[X], FX18 with ST = V[X], each with PC two further and nothing else
changed. This is the instruction's own effect at commit; the timer step of the tick is stated apart. (R230, R231,
R232) -/
def Obligations.TimerInstructionsMoveTheTimers : Prop :=
  ∀ x : Reg, decodeWord (formatXI 0xF x 0x07) = some (.ldRegDt x) ∧ decodeWord (formatXI 0xF x 0x15) = some (.ldDtReg x) ∧
    decodeWord (formatXI 0xF x 0x18) = some (.ldStReg x) ∧
    ∀ s : State,
      (∃ t, exec (.ldRegDt x) s = .next t ∧ t.reg x = s.dt ∧ t.pc = s.pc + 2 ∧ FrameExcept (· = x) [] s t) ∧
      (∃ t, exec (.ldDtReg x) s = .next t ∧ t.dt = s.reg x ∧ t.pc = s.pc + 2 ∧
        FrameExcept (fun _ => False) [.delayTimer] s t) ∧
      (∃ t, exec (.ldStReg x) s = .next t ∧ t.st = s.reg x ∧ t.pc = s.pc + 2 ∧
        FrameExcept (fun _ => False) [.soundTimer] s t)

/-- FX1E adds V[X] to I in 16 bits and sets VF when the new I is above 0xFFF. For every X (with X = 15 the addend is the
old VF), FX1E completes with I equal to the sum modulo 65536, VF = 1 when that new I is above 0xFFF and 0 otherwise,
PC two further and nothing else changed. The wrap and the flag of the wrapped value are decision D9. (R240, R180,
92_eei_decisions.md D9) -/
def Obligations.AddIndexTestsTheStoredSum : Prop :=
  ∀ x : Reg, decodeWord (formatXI 0xF x 0x1E) = some (.addI x) ∧
    ∀ s : State, ∃ t, exec (.addI x) s = .next t ∧ t.i.toNat = (s.i.toNat + (s.reg x).toNat) % 65536 ∧
      t.reg regVF = (if 0x0FFF < (s.i.toNat + (s.reg x).toNat) % 65536 then 1 else 0) ∧ t.pc = s.pc + 2 ∧
      FrameExcept (· = regVF) [.index] s t

/-- FX29 sets I to 5 times V[X], unmasked, and changes nothing else. For every X and every value of V[X], FX29 completes
with I equal to 5 times V[X] (0 to 1275), PC two further and nothing else changed. That values above 15 are neither
masked nor checked is decision D25. (R241, 92_eei_decisions.md D25) -/
def Obligations.GlyphAddressIsFiveTimesTheDigit : Prop :=
  ∀ x : Reg, decodeWord (formatXI 0xF x 0x29) = some (.ldGlyph x) ∧
    ∀ s : State, ∃ t, exec (.ldGlyph x) s = .next t ∧ t.i.toNat = 5 * (s.reg x).toNat ∧ t.pc = s.pc + 2 ∧
      FrameExcept (fun _ => False) [.index] s t

/-- FX33 stores the hundreds, tens and ones of V[X] at I, I + 1, I + 2, or faults. For every X, with I + 2 at most 4095,
FX33 completes with the three decimal digits of V[X] at I, I + 1 and I + 2, every other byte as before, PC two
further, and nothing else (I included) changed. With I + 2 above 4095 it raises MemoryOutOfBounds with I when I is
above 4095 and 4096 otherwise. Which address is reported is decision D10. (R242, 92_eei_decisions.md D10) -/
def Obligations.StoreDecimalWritesThreeDigits : Prop :=
  ∀ x : Reg, decodeWord (formatXI 0xF x 0x33) = some (.ldBcd x) ∧
    (∀ s : State, s.base + 2 ≤ 4095 →
      ∃ t, exec (.ldBcd x) s = .next t ∧
        (t.byteAt s.base).toNat = (s.reg x).toNat / 100 ∧
        (t.byteAt (s.base + 1)).toNat = (s.reg x).toNat / 10 % 10 ∧
        (t.byteAt (s.base + 2)).toNat = (s.reg x).toNat % 10 ∧
        BytesKeptOutside s.base 3 s t ∧ t.pc = s.pc + 2 ∧ FrameExcept (fun _ => False) [.memory] s t) ∧
    (∀ s : State, 4095 < s.base + 2 →
      exec (.ldBcd x) s = .fault (.memoryOutOfBounds (if 4095 < s.base then s.base else 4096)))

/-- FX55 stores V0 to V[X] from I up and advances I by X + 1, or faults. For every X, with I + X at most 4095, FX55
completes with V[k] at I + k for every k from 0 to X, every other byte as before, I advanced by X + 1, PC two
further and nothing else changed. With I + X above 4095 it raises MemoryOutOfBounds with I when I is above 4095 and
4096 otherwise. Which address is reported is decision D10. (R243, 92_eei_decisions.md D10) -/
def Obligations.StoreRegistersWritesAndAdvancesI : Prop :=
  ∀ x : Reg, decodeWord (formatXI 0xF x 0x55) = some (.storeRegs x) ∧
    (∀ s : State, s.base + x.val ≤ 4095 →
      ∃ t, exec (.storeRegs x) s = .next t ∧ (∀ k : Reg, k ≤ x → t.byteAt (s.base + k.val) = s.reg k) ∧
        BytesKeptOutside s.base (x.val + 1) s t ∧ t.i.toNat = s.i.toNat + x.val + 1 ∧ t.pc = s.pc + 2 ∧
        FrameExcept (fun _ => False) [.memory, .index] s t) ∧
    (∀ s : State, 4095 < s.base + x.val →
      exec (.storeRegs x) s = .fault (.memoryOutOfBounds (if 4095 < s.base then s.base else 4096)))

/-- FX65 loads V0 to V[X] from I up and advances I by X + 1, or faults. For every X, with I + X at most 4095, FX65
completes with V[k] the byte at I + k for every k from 0 to X, the registers above X as before, I advanced by X + 1,
PC two further and nothing else changed. With I + X above 4095 it raises MemoryOutOfBounds with I when I is above
4095 and 4096 otherwise. Which address is reported is decision D10. (R244, 92_eei_decisions.md D10) -/
def Obligations.LoadRegistersReadsAndAdvancesI : Prop :=
  ∀ x : Reg, decodeWord (formatXI 0xF x 0x65) = some (.loadRegs x) ∧
    (∀ s : State, s.base + x.val ≤ 4095 →
      ∃ t, exec (.loadRegs x) s = .next t ∧ (∀ k : Reg, k ≤ x → t.reg k = s.byteAt (s.base + k.val)) ∧
        t.i.toNat = s.i.toNat + x.val + 1 ∧ t.pc = s.pc + 2 ∧ FrameExcept (· ≤ x) [.index] s t) ∧
    (∀ s : State, 4095 < s.base + x.val →
      exec (.loadRegs x) s = .fault (.memoryOutOfBounds (if 4095 < s.base then s.base else 4096)))

/-- FX55 then FX65 with the same X and I set back leaves V0 to V[X] as they were. After an FX55 that completes, an FX65
with the same X from any state with the memory bytes it left and I set back completes with V[0] to V[X] as before
the FX55 and I advanced by X + 1. (R246, R243, R244) -/
def Obligations.StoreThenLoadRestoresTheRegisters : Prop :=
  ∀ (x : Reg) (s t u : State), exec (.storeRegs x) s = .next t → (∀ a, u.byteAt a = t.byteAt a) → u.i = s.i →
    ∃ q, exec (.loadRegs x) u = .next q ∧ (∀ k : Reg, k ≤ x → q.reg k = s.reg k) ∧
      q.i.toNat = s.i.toNat + x.val + 1

/-- An opcode written by FX55 is what the next fetch at its address reads. After an FX55 with X at least 1 that
completes, a fetch at the address stored to, from any state with the memory bytes it left, reads V0 as the high byte
and V1 as the low byte, with nothing to synchronise. (R71, R60, R61, R243) -/
def Obligations.StoredOpcodeIsTheNextFetch : Prop :=
  ∀ (x : Reg) (s t u : State), 1 ≤ x → exec (.storeRegs x) s = .next t → (∀ a, u.byteAt a = t.byteAt a) → u.pc = s.i →
    fetch u = .ok (wordOfBytes (s.reg 0) (s.reg 1))

/-- Every step keeps: memory canonical, SP at most STACK_DEPTH, stack entries at most 4096, PC at most 0x10FE. From
every state that meets the invariant, whatever the host's next event, the key lines and the random input, a step
that answers a next state gives one that meets it. The canonical form of memory is the model's own part of the
invariant. (R38, R25, R26, R30, R63, R152) -/
def Obligations.EveryStepKeepsTheInvariant : Prop :=
  ∀ s t : State, s.Inv → step s = .next t → t.Inv

/-- The state after reset meets the invariant. State.reset has memory in canonical form, SP at most STACK_DEPTH, no
stack entry and PC at most 0x10FE. (R38, R39) -/
def Obligations.ResetStateMeetsTheInvariant : Prop :=
  State.reset.Inv

/-- An instruction faults exactly on its own condition of the fault table and completes otherwise. For every well-formed
instruction and every state under the key range policy fault, the execute phase raises the fault the table of rule
R291 gives it, on the table's condition and with the table's fault, and no other; where the table gives none the
instruction completes. The other 27 instructions always complete. The two stack faults have codes 3 and 4. Which
address is reported, the key fault and the codes are decisions D10, D7 and D15. (R291, R64, R270,
92_eei_decisions.md D7, 92_eei_decisions.md D10, 92_eei_decisions.md D15) -/
def Obligations.ExecuteFaultsAreTheOnesListed : Prop :=
  ∀ (i : Instr) (s : State), i.wellFormed = true → s.params.keyRangePolicy = .fault →
    (∀ f, exec i s = .fault f ↔ executeFault s i = some f) ∧ (executeFault s i = none → ∃ t, exec i s = .next t) ∧
    Fault.stackOverflow.code = 3 ∧ Fault.stackUnderflow.code = 4

/-- No instruction is ever refused; the one refusal is a timer_tick under per_tick. exec answers a next state or a fault
for every instruction and state, and a step is refused only when the host starts a timer_tick under per_tick, an
event that does not exist there. (R10, R95, R128) -/
def Obligations.NoInstructionIsRefused : Prop :=
  (∀ (i : Instr) (s : State) (q : Refusal), exec i s ≠ .refused q) ∧
  (∀ (s : State) (q : Refusal), step s = .refused q →
    s.nextEvent = .timerTick ∧ s.params.timerPolicy = .perTick ∧ q = .timerTickUnderPerTick)

/-- A fault of a tick does not depend on the key lines or the random input, so ticking again repeats it. When a tick
faults, the tick from the same state with any other key lines, queued random bytes and draw count raises the same
fault: a faulted machine makes no progress until the host resets or reloads it. That the block keeps no fault latch
is decision D15 (log entry 14). (R275, R281, R279, 92_eei_decisions.md D15) -/
def Obligations.FaultsDependOnTheStateAlone : Prop :=
  ∀ (s : State) (f : Fault) (keys : Vector Bool 16) (queue : List Byte) (draws : Nat), s.nextEvent = .tick →
    step s = .fault f → step { s with keys := keys, randQueue := queue, draws := draws } = .fault f

/-- No instruction but FX33 and FX55 changes a byte of memory, and those two only from I up inside memory. For every
instruction but FX33 and FX55, completion leaves every byte as before. For those two every byte below I, and every
byte from I plus the count of bytes stored on, is as before, and the bytes stored to lie in memory. (R30, R65, R69,
R245) -/
def Obligations.OnlyStoresChangeMemory : Prop :=
  ∀ (i : Instr) (s t : State), exec i s = .next t →
    ((∀ x, i ≠ .ldBcd x) → (∀ x, i ≠ .storeRegs x) → ∀ a, t.byteAt a = s.byteAt a) ∧
    (∀ x, i = .ldBcd x → s.base + 3 ≤ 4096 ∧ BytesKeptOutside s.base 3 s t) ∧
    (∀ x, i = .storeRegs x → s.base + (x.val + 1) ≤ 4096 ∧ BytesKeptOutside s.base (x.val + 1) s t)

/-- No instruction but 00E0 and DXYN changes a cell of the framebuffer. For every instruction but 00E0 and DXYN,
completion leaves every cell as before. (R32, R207) -/
def Obligations.OnlyClearAndDrawChangeTheScreen : Prop :=
  ∀ (i : Instr) (s t : State), exec i s = .next t → i ≠ .cls → (∀ x y n, i ≠ .drw x y n) →
    ∀ x y, t.pixel x y = s.pixel x y

/-- No instruction but 2NNN and 00EE changes the call stack. For every instruction but 2NNN and 00EE, completion leaves
the stack, and so SP, as before. (R26) -/
def Obligations.OnlyCallAndReturnChangeTheStack : Prop :=
  ∀ (i : Instr) (s t : State), exec i s = .next t → i ≠ .ret → (∀ nnn, i ≠ .call nnn) → t.stack = s.stack

/-- An instruction changes only the registers the access table lets it write, and VF as a flag only in seven. For every
instruction that completes, a register it does not write by the table of rule R21 is as before, VF excepted for the
seven instructions that write it as a flag; 8XY1, 8XY2, 8XY3 and 7XNN are not among them. (R21, R22, R33, R311) -/
def Obligations.RegistersChangeOnlyAsTabled : Prop :=
  ∀ (i : Instr) (s t : State) (r : Reg), exec i s = .next t → writesReg i r = false →
    (writesFlag i = true → r ≠ regVF) → t.reg r = s.reg r

/-- Every instruction that does not redirect control flow leaves PC two further. For every instruction outside the
eleven whose rule sets PC, completion leaves PC equal to P + 2; for those eleven (FX0A among them) the new PC is
stated with the instruction. (R25, R126) -/
def Obligations.PcAdvancesByTwoUnlessRedirected : Prop :=
  ∀ (i : Instr) (s t : State), exec i s = .next t → redirects i = false → t.pc = s.pc + 2

/-- No instruction but EX9E, EXA1 and FX0A depends on the key lines. For every other instruction, executing it with
other key lines gives the same outcome with those key lines in place; no instruction changes a key line. (R220,
R133) -/
def Obligations.KeysAreReadByKeyInstructionsOnly : Prop :=
  ∀ (i : Instr) (s : State) (keys : Vector Bool 16), (∀ x, i ≠ .skp x) → (∀ x, i ≠ .sknp x) → (∀ x, i ≠ .ldRegKey x) →
    (∀ t, exec i s = .next t → t.keys = s.keys ∧ exec i { s with keys := keys } = .next { t with keys := keys }) ∧
    (∀ f, exec i s = .fault f → exec i { s with keys := keys } = .fault f)

/-- No instruction but CXNN depends on the random input or takes a byte from it. For every other instruction, executing
it with another random input gives the same outcome with that random input in place, so no byte is taken. (R133,
R173) -/
def Obligations.RandomByteIsReadByRndOnly : Prop :=
  ∀ (i : Instr) (s : State) (queue : List Byte) (draws : Nat), (∀ x nn, i ≠ .rnd x nn) →
    (∀ t, exec i s = .next t → t.randQueue = s.randQueue ∧ t.draws = s.draws ∧
      exec i { s with randQueue := queue, draws := draws } = .next { t with randQueue := queue, draws := draws }) ∧
    (∀ f, exec i s = .fault f → exec i { s with randQueue := queue, draws := draws } = .fault f)

/-- No step changes a parameter of the block. Whatever the host's next event and the instruction, a step that answers a
next state leaves STACK_DEPTH, TIMER_POLICY, KEY_SELECT and KEY_RANGE_POLICY as they were. That a state carries the
parameters is the model's own choice (notes/assumptions/1.md). (R6, R20) -/
def Obligations.ParametersNeverChange : Prop :=
  ∀ s t : State, step s = .next t → t.params = s.params
end

