-- ==== Sys2Proof/Laws/Decode.lean ====
section
/-! SUPPORT. The three formats as numbers, and what each field of rule R91 gives on a word a format built (rule R92). -/
namespace Sys2Proof

/-- Concatenation, high part first, as a number (rule R8). -/
theorem toNat_append_eq {m n : Nat} (a : BitVec m) (b : BitVec n) : (a ++ b).toNat = a.toNat * 2 ^ n + b.toNat := by
  rw [BitVec.toNat_append, ← Nat.shiftLeft_add_eq_or_of_lt b.isLt, Nat.shiftLeft_eq]

@[simp] theorem toNat_regBits (r : Reg) : (regBits r).toNat = r.val := rfl

theorem toNat_wordOfBytes (hi lo : Byte) : (wordOfBytes hi lo).toNat = hi.toNat * 256 + lo.toNat := toNat_append_eq ..

theorem toNat_formatA (op : BitVec 4) (nnn : BitVec 12) : (formatA op nnn).toNat = op.toNat * 4096 + nnn.toNat :=
  toNat_append_eq ..

theorem toNat_formatXI (op : BitVec 4) (x : Reg) (nn : Byte) :
    (formatXI op x nn).toNat = op.toNat * 4096 + x.val * 256 + nn.toNat := by
  simp only [formatXI, toNat_append_eq, toNat_regBits]; omega

theorem toNat_formatXYN (op : BitVec 4) (x y : Reg) (n : BitVec 4) :
    (formatXYN op x y n).toNat = op.toNat * 4096 + x.val * 256 + y.val * 16 + n.toNat := by
  simp only [formatXYN, toNat_append_eq, toNat_regBits]; omega

/-! ### Fields as numbers -/

theorem toNat_fieldOP (w : Word) : (fieldOP w).toNat = w.toNat / 4096 % 16 := by
  simp [fieldOP, Nat.shiftRight_eq_div_pow]
theorem val_fieldX (w : Word) : (fieldX w).val = w.toNat / 256 % 16 := by
  show (w.extractLsb' 8 4).toNat = _
  simp [Nat.shiftRight_eq_div_pow]
theorem val_fieldY (w : Word) : (fieldY w).val = w.toNat / 16 % 16 := by
  show (w.extractLsb' 4 4).toNat = _
  simp [Nat.shiftRight_eq_div_pow]
theorem toNat_fieldN (w : Word) : (fieldN w).toNat = w.toNat % 16 := by simp [fieldN]
theorem toNat_fieldNN (w : Word) : (fieldNN w).toNat = w.toNat % 256 := by simp [fieldNN]
theorem toNat_fieldNNN (w : Word) : (fieldNNN w).toNat = w.toNat % 4096 := by simp [fieldNNN]

/-! ### Format `A` -/

@[simp] theorem fieldOP_formatA (op : BitVec 4) (nnn : BitVec 12) : fieldOP (formatA op nnn) = op := by
  apply BitVec.eq_of_toNat_eq
  rw [toNat_fieldOP, toNat_formatA]; have := nnn.isLt; have := op.isLt; omega

@[simp] theorem fieldNNN_formatA (op : BitVec 4) (nnn : BitVec 12) : fieldNNN (formatA op nnn) = nnn := by
  apply BitVec.eq_of_toNat_eq
  rw [toNat_fieldNNN, toNat_formatA]; have := nnn.isLt; omega

/-! ### Formats `XI` and `XF` -/

@[simp] theorem fieldOP_formatXI (op : BitVec 4) (x : Reg) (nn : Byte) : fieldOP (formatXI op x nn) = op := by
  apply BitVec.eq_of_toNat_eq
  rw [toNat_fieldOP, toNat_formatXI]; have := nn.isLt; have := op.isLt; omega

@[simp] theorem fieldX_formatXI (op : BitVec 4) (x : Reg) (nn : Byte) : fieldX (formatXI op x nn) = x := by
  apply Fin.ext
  rw [val_fieldX, toNat_formatXI]; have := nn.isLt; omega

@[simp] theorem fieldNN_formatXI (op : BitVec 4) (x : Reg) (nn : Byte) : fieldNN (formatXI op x nn) = nn := by
  apply BitVec.eq_of_toNat_eq
  rw [toNat_fieldNN, toNat_formatXI]; have := nn.isLt; omega

/-! ### Formats `XY` and `XYN` -/

@[simp] theorem fieldOP_formatXYN (op : BitVec 4) (x y : Reg) (n : BitVec 4) : fieldOP (formatXYN op x y n) = op := by
  apply BitVec.eq_of_toNat_eq
  rw [toNat_fieldOP, toNat_formatXYN]; have := n.isLt; have := op.isLt; omega

@[simp] theorem fieldX_formatXYN (op : BitVec 4) (x y : Reg) (n : BitVec 4) : fieldX (formatXYN op x y n) = x := by
  apply Fin.ext
  rw [val_fieldX, toNat_formatXYN]; have := n.isLt; omega

@[simp] theorem fieldY_formatXYN (op : BitVec 4) (x y : Reg) (n : BitVec 4) : fieldY (formatXYN op x y n) = y := by
  apply Fin.ext
  rw [val_fieldY, toNat_formatXYN]; have := n.isLt; omega

@[simp] theorem fieldN_formatXYN (op : BitVec 4) (x y : Reg) (n : BitVec 4) : fieldN (formatXYN op x y n) = n := by
  apply BitVec.eq_of_toNat_eq
  rw [toNat_fieldN, toNat_formatXYN]; have := n.isLt; omega

/-! ### Bytes -/

@[simp] theorem wordOfBytes_highByte_lowByte (w : Word) : wordOfBytes (highByte w) (lowByte w) = w := by
  apply BitVec.eq_of_toNat_eq
  have := w.isLt
  rw [toNat_wordOfBytes]
  simp only [highByte, lowByte, BitVec.extractLsb'_toNat, Nat.shiftRight_eq_div_pow]
  omega

end Sys2Proof
end

