-- ==== Sys2Proof/Laws/State.lean ====
section
/-! SUPPORT. One lemma per field and accessor per update of State, true by rfl, so that no proof unfolds a record update. -/
namespace Sys2Proof.Machine

/-! ### `setMem` -/

@[simp] theorem State.setMem_mem (s : State) (m : Memory) : (s.setMem m).mem = m := rfl
@[simp] theorem State.setMem_v (s : State) (m : Memory) : (s.setMem m).v = s.v := rfl
@[simp] theorem State.setMem_i (s : State) (m : Memory) : (s.setMem m).i = s.i := rfl
@[simp] theorem State.setMem_pc (s : State) (m : Memory) : (s.setMem m).pc = s.pc := rfl
@[simp] theorem State.setMem_stack (s : State) (m : Memory) : (s.setMem m).stack = s.stack := rfl
@[simp] theorem State.setMem_dt (s : State) (m : Memory) : (s.setMem m).dt = s.dt := rfl
@[simp] theorem State.setMem_st (s : State) (m : Memory) : (s.setMem m).st = s.st := rfl
@[simp] theorem State.setMem_fb (s : State) (m : Memory) : (s.setMem m).fb = s.fb := rfl
@[simp] theorem State.setMem_params (s : State) (m : Memory) : (s.setMem m).params = s.params := rfl
@[simp] theorem State.setMem_keys (s : State) (m : Memory) : (s.setMem m).keys = s.keys := rfl
@[simp] theorem State.setMem_randQueue (s : State) (m : Memory) : (s.setMem m).randQueue = s.randQueue := rfl
@[simp] theorem State.setMem_draws (s : State) (m : Memory) : (s.setMem m).draws = s.draws := rfl
@[simp] theorem State.setMem_hostQueue (s : State) (m : Memory) : (s.setMem m).hostQueue = s.hostQueue := rfl
@[simp] theorem State.setMem_reg (s : State) (m : Memory) (r : Reg) : (s.setMem m).reg r = s.reg r := rfl
@[simp] theorem State.setMem_pixel (s : State) (m : Memory) (x y : Nat) : (s.setMem m).pixel x y = s.pixel x y := rfl
@[simp] theorem State.setMem_sp (s : State) (m : Memory) : (s.setMem m).sp = s.sp := rfl

/-! ### `setI` -/

@[simp] theorem State.setI_mem (s : State) (w : Word) : (s.setI w).mem = s.mem := rfl
@[simp] theorem State.setI_v (s : State) (w : Word) : (s.setI w).v = s.v := rfl
@[simp] theorem State.setI_i (s : State) (w : Word) : (s.setI w).i = w := rfl
@[simp] theorem State.setI_pc (s : State) (w : Word) : (s.setI w).pc = s.pc := rfl
@[simp] theorem State.setI_stack (s : State) (w : Word) : (s.setI w).stack = s.stack := rfl
@[simp] theorem State.setI_dt (s : State) (w : Word) : (s.setI w).dt = s.dt := rfl
@[simp] theorem State.setI_st (s : State) (w : Word) : (s.setI w).st = s.st := rfl
@[simp] theorem State.setI_fb (s : State) (w : Word) : (s.setI w).fb = s.fb := rfl
@[simp] theorem State.setI_params (s : State) (w : Word) : (s.setI w).params = s.params := rfl
@[simp] theorem State.setI_keys (s : State) (w : Word) : (s.setI w).keys = s.keys := rfl
@[simp] theorem State.setI_randQueue (s : State) (w : Word) : (s.setI w).randQueue = s.randQueue := rfl
@[simp] theorem State.setI_draws (s : State) (w : Word) : (s.setI w).draws = s.draws := rfl
@[simp] theorem State.setI_hostQueue (s : State) (w : Word) : (s.setI w).hostQueue = s.hostQueue := rfl
@[simp] theorem State.setI_reg (s : State) (w : Word) (r : Reg) : (s.setI w).reg r = s.reg r := rfl
@[simp] theorem State.setI_byteAt (s : State) (w : Word) (a : Nat) : (s.setI w).byteAt a = s.byteAt a := rfl
@[simp] theorem State.setI_pixel (s : State) (w : Word) (x y : Nat) : (s.setI w).pixel x y = s.pixel x y := rfl
@[simp] theorem State.setI_sp (s : State) (w : Word) : (s.setI w).sp = s.sp := rfl

/-! ### `setPc` -/

@[simp] theorem State.setPc_mem (s : State) (w : Word) : (s.setPc w).mem = s.mem := rfl
@[simp] theorem State.setPc_v (s : State) (w : Word) : (s.setPc w).v = s.v := rfl
@[simp] theorem State.setPc_i (s : State) (w : Word) : (s.setPc w).i = s.i := rfl
@[simp] theorem State.setPc_pc (s : State) (w : Word) : (s.setPc w).pc = w := rfl
@[simp] theorem State.setPc_stack (s : State) (w : Word) : (s.setPc w).stack = s.stack := rfl
@[simp] theorem State.setPc_dt (s : State) (w : Word) : (s.setPc w).dt = s.dt := rfl
@[simp] theorem State.setPc_st (s : State) (w : Word) : (s.setPc w).st = s.st := rfl
@[simp] theorem State.setPc_fb (s : State) (w : Word) : (s.setPc w).fb = s.fb := rfl
@[simp] theorem State.setPc_params (s : State) (w : Word) : (s.setPc w).params = s.params := rfl
@[simp] theorem State.setPc_keys (s : State) (w : Word) : (s.setPc w).keys = s.keys := rfl
@[simp] theorem State.setPc_randQueue (s : State) (w : Word) : (s.setPc w).randQueue = s.randQueue := rfl
@[simp] theorem State.setPc_draws (s : State) (w : Word) : (s.setPc w).draws = s.draws := rfl
@[simp] theorem State.setPc_hostQueue (s : State) (w : Word) : (s.setPc w).hostQueue = s.hostQueue := rfl
@[simp] theorem State.setPc_reg (s : State) (w : Word) (r : Reg) : (s.setPc w).reg r = s.reg r := rfl
@[simp] theorem State.setPc_byteAt (s : State) (w : Word) (a : Nat) : (s.setPc w).byteAt a = s.byteAt a := rfl
@[simp] theorem State.setPc_pixel (s : State) (w : Word) (x y : Nat) : (s.setPc w).pixel x y = s.pixel x y := rfl
@[simp] theorem State.setPc_sp (s : State) (w : Word) : (s.setPc w).sp = s.sp := rfl

/-! ### `setStack` -/

@[simp] theorem State.setStack_mem (s : State) (l : List Word) : (s.setStack l).mem = s.mem := rfl
@[simp] theorem State.setStack_v (s : State) (l : List Word) : (s.setStack l).v = s.v := rfl
@[simp] theorem State.setStack_i (s : State) (l : List Word) : (s.setStack l).i = s.i := rfl
@[simp] theorem State.setStack_pc (s : State) (l : List Word) : (s.setStack l).pc = s.pc := rfl
@[simp] theorem State.setStack_stack (s : State) (l : List Word) : (s.setStack l).stack = l := rfl
@[simp] theorem State.setStack_dt (s : State) (l : List Word) : (s.setStack l).dt = s.dt := rfl
@[simp] theorem State.setStack_st (s : State) (l : List Word) : (s.setStack l).st = s.st := rfl
@[simp] theorem State.setStack_fb (s : State) (l : List Word) : (s.setStack l).fb = s.fb := rfl
@[simp] theorem State.setStack_params (s : State) (l : List Word) : (s.setStack l).params = s.params := rfl
@[simp] theorem State.setStack_keys (s : State) (l : List Word) : (s.setStack l).keys = s.keys := rfl
@[simp] theorem State.setStack_randQueue (s : State) (l : List Word) : (s.setStack l).randQueue = s.randQueue := rfl
@[simp] theorem State.setStack_draws (s : State) (l : List Word) : (s.setStack l).draws = s.draws := rfl
@[simp] theorem State.setStack_hostQueue (s : State) (l : List Word) : (s.setStack l).hostQueue = s.hostQueue := rfl
@[simp] theorem State.setStack_reg (s : State) (l : List Word) (r : Reg) : (s.setStack l).reg r = s.reg r := rfl
@[simp] theorem State.setStack_byteAt (s : State) (l : List Word) (a : Nat) : (s.setStack l).byteAt a = s.byteAt a := rfl
@[simp] theorem State.setStack_pixel (s : State) (l : List Word) (x y : Nat) : (s.setStack l).pixel x y = s.pixel x y := rfl

/-! ### `setDt` -/

@[simp] theorem State.setDt_mem (s : State) (b : Byte) : (s.setDt b).mem = s.mem := rfl
@[simp] theorem State.setDt_v (s : State) (b : Byte) : (s.setDt b).v = s.v := rfl
@[simp] theorem State.setDt_i (s : State) (b : Byte) : (s.setDt b).i = s.i := rfl
@[simp] theorem State.setDt_pc (s : State) (b : Byte) : (s.setDt b).pc = s.pc := rfl
@[simp] theorem State.setDt_stack (s : State) (b : Byte) : (s.setDt b).stack = s.stack := rfl
@[simp] theorem State.setDt_dt (s : State) (b : Byte) : (s.setDt b).dt = b := rfl
@[simp] theorem State.setDt_st (s : State) (b : Byte) : (s.setDt b).st = s.st := rfl
@[simp] theorem State.setDt_fb (s : State) (b : Byte) : (s.setDt b).fb = s.fb := rfl
@[simp] theorem State.setDt_params (s : State) (b : Byte) : (s.setDt b).params = s.params := rfl
@[simp] theorem State.setDt_keys (s : State) (b : Byte) : (s.setDt b).keys = s.keys := rfl
@[simp] theorem State.setDt_randQueue (s : State) (b : Byte) : (s.setDt b).randQueue = s.randQueue := rfl
@[simp] theorem State.setDt_draws (s : State) (b : Byte) : (s.setDt b).draws = s.draws := rfl
@[simp] theorem State.setDt_hostQueue (s : State) (b : Byte) : (s.setDt b).hostQueue = s.hostQueue := rfl
@[simp] theorem State.setDt_reg (s : State) (b : Byte) (r : Reg) : (s.setDt b).reg r = s.reg r := rfl
@[simp] theorem State.setDt_byteAt (s : State) (b : Byte) (a : Nat) : (s.setDt b).byteAt a = s.byteAt a := rfl
@[simp] theorem State.setDt_pixel (s : State) (b : Byte) (x y : Nat) : (s.setDt b).pixel x y = s.pixel x y := rfl
@[simp] theorem State.setDt_sp (s : State) (b : Byte) : (s.setDt b).sp = s.sp := rfl

/-! ### `setSt` -/

@[simp] theorem State.setSt_mem (s : State) (b : Byte) : (s.setSt b).mem = s.mem := rfl
@[simp] theorem State.setSt_v (s : State) (b : Byte) : (s.setSt b).v = s.v := rfl
@[simp] theorem State.setSt_i (s : State) (b : Byte) : (s.setSt b).i = s.i := rfl
@[simp] theorem State.setSt_pc (s : State) (b : Byte) : (s.setSt b).pc = s.pc := rfl
@[simp] theorem State.setSt_stack (s : State) (b : Byte) : (s.setSt b).stack = s.stack := rfl
@[simp] theorem State.setSt_dt (s : State) (b : Byte) : (s.setSt b).dt = s.dt := rfl
@[simp] theorem State.setSt_st (s : State) (b : Byte) : (s.setSt b).st = b := rfl
@[simp] theorem State.setSt_fb (s : State) (b : Byte) : (s.setSt b).fb = s.fb := rfl
@[simp] theorem State.setSt_params (s : State) (b : Byte) : (s.setSt b).params = s.params := rfl
@[simp] theorem State.setSt_keys (s : State) (b : Byte) : (s.setSt b).keys = s.keys := rfl
@[simp] theorem State.setSt_randQueue (s : State) (b : Byte) : (s.setSt b).randQueue = s.randQueue := rfl
@[simp] theorem State.setSt_draws (s : State) (b : Byte) : (s.setSt b).draws = s.draws := rfl
@[simp] theorem State.setSt_hostQueue (s : State) (b : Byte) : (s.setSt b).hostQueue = s.hostQueue := rfl
@[simp] theorem State.setSt_reg (s : State) (b : Byte) (r : Reg) : (s.setSt b).reg r = s.reg r := rfl
@[simp] theorem State.setSt_byteAt (s : State) (b : Byte) (a : Nat) : (s.setSt b).byteAt a = s.byteAt a := rfl
@[simp] theorem State.setSt_pixel (s : State) (b : Byte) (x y : Nat) : (s.setSt b).pixel x y = s.pixel x y := rfl
@[simp] theorem State.setSt_sp (s : State) (b : Byte) : (s.setSt b).sp = s.sp := rfl

/-! ### `setFb` -/

@[simp] theorem State.setFb_mem (s : State) (f : Framebuffer) : (s.setFb f).mem = s.mem := rfl
@[simp] theorem State.setFb_v (s : State) (f : Framebuffer) : (s.setFb f).v = s.v := rfl
@[simp] theorem State.setFb_i (s : State) (f : Framebuffer) : (s.setFb f).i = s.i := rfl
@[simp] theorem State.setFb_pc (s : State) (f : Framebuffer) : (s.setFb f).pc = s.pc := rfl
@[simp] theorem State.setFb_stack (s : State) (f : Framebuffer) : (s.setFb f).stack = s.stack := rfl
@[simp] theorem State.setFb_dt (s : State) (f : Framebuffer) : (s.setFb f).dt = s.dt := rfl
@[simp] theorem State.setFb_st (s : State) (f : Framebuffer) : (s.setFb f).st = s.st := rfl
@[simp] theorem State.setFb_fb (s : State) (f : Framebuffer) : (s.setFb f).fb = f := rfl
@[simp] theorem State.setFb_params (s : State) (f : Framebuffer) : (s.setFb f).params = s.params := rfl
@[simp] theorem State.setFb_keys (s : State) (f : Framebuffer) : (s.setFb f).keys = s.keys := rfl
@[simp] theorem State.setFb_randQueue (s : State) (f : Framebuffer) : (s.setFb f).randQueue = s.randQueue := rfl
@[simp] theorem State.setFb_draws (s : State) (f : Framebuffer) : (s.setFb f).draws = s.draws := rfl
@[simp] theorem State.setFb_hostQueue (s : State) (f : Framebuffer) : (s.setFb f).hostQueue = s.hostQueue := rfl
@[simp] theorem State.setFb_reg (s : State) (f : Framebuffer) (r : Reg) : (s.setFb f).reg r = s.reg r := rfl
@[simp] theorem State.setFb_byteAt (s : State) (f : Framebuffer) (a : Nat) : (s.setFb f).byteAt a = s.byteAt a := rfl
@[simp] theorem State.setFb_sp (s : State) (f : Framebuffer) : (s.setFb f).sp = s.sp := rfl

/-! ### `setV` -/

@[simp] theorem State.setV_mem (s : State) (u : Vector Byte 16) : (s.setV u).mem = s.mem := rfl
@[simp] theorem State.setV_v (s : State) (u : Vector Byte 16) : (s.setV u).v = u := rfl
@[simp] theorem State.setV_i (s : State) (u : Vector Byte 16) : (s.setV u).i = s.i := rfl
@[simp] theorem State.setV_pc (s : State) (u : Vector Byte 16) : (s.setV u).pc = s.pc := rfl
@[simp] theorem State.setV_stack (s : State) (u : Vector Byte 16) : (s.setV u).stack = s.stack := rfl
@[simp] theorem State.setV_dt (s : State) (u : Vector Byte 16) : (s.setV u).dt = s.dt := rfl
@[simp] theorem State.setV_st (s : State) (u : Vector Byte 16) : (s.setV u).st = s.st := rfl
@[simp] theorem State.setV_fb (s : State) (u : Vector Byte 16) : (s.setV u).fb = s.fb := rfl
@[simp] theorem State.setV_params (s : State) (u : Vector Byte 16) : (s.setV u).params = s.params := rfl
@[simp] theorem State.setV_keys (s : State) (u : Vector Byte 16) : (s.setV u).keys = s.keys := rfl
@[simp] theorem State.setV_randQueue (s : State) (u : Vector Byte 16) : (s.setV u).randQueue = s.randQueue := rfl
@[simp] theorem State.setV_draws (s : State) (u : Vector Byte 16) : (s.setV u).draws = s.draws := rfl
@[simp] theorem State.setV_hostQueue (s : State) (u : Vector Byte 16) : (s.setV u).hostQueue = s.hostQueue := rfl
@[simp] theorem State.setV_byteAt (s : State) (u : Vector Byte 16) (a : Nat) : (s.setV u).byteAt a = s.byteAt a := rfl
@[simp] theorem State.setV_pixel (s : State) (u : Vector Byte 16) (x y : Nat) : (s.setV u).pixel x y = s.pixel x y := rfl
@[simp] theorem State.setV_sp (s : State) (u : Vector Byte 16) : (s.setV u).sp = s.sp := rfl

/-! ### `setKeys` -/

@[simp] theorem State.setKeys_mem (s : State) (k : Vector Bool 16) : (s.setKeys k).mem = s.mem := rfl
@[simp] theorem State.setKeys_v (s : State) (k : Vector Bool 16) : (s.setKeys k).v = s.v := rfl
@[simp] theorem State.setKeys_i (s : State) (k : Vector Bool 16) : (s.setKeys k).i = s.i := rfl
@[simp] theorem State.setKeys_pc (s : State) (k : Vector Bool 16) : (s.setKeys k).pc = s.pc := rfl
@[simp] theorem State.setKeys_stack (s : State) (k : Vector Bool 16) : (s.setKeys k).stack = s.stack := rfl
@[simp] theorem State.setKeys_dt (s : State) (k : Vector Bool 16) : (s.setKeys k).dt = s.dt := rfl
@[simp] theorem State.setKeys_st (s : State) (k : Vector Bool 16) : (s.setKeys k).st = s.st := rfl
@[simp] theorem State.setKeys_fb (s : State) (k : Vector Bool 16) : (s.setKeys k).fb = s.fb := rfl
@[simp] theorem State.setKeys_params (s : State) (k : Vector Bool 16) : (s.setKeys k).params = s.params := rfl
@[simp] theorem State.setKeys_keys (s : State) (k : Vector Bool 16) : (s.setKeys k).keys = k := rfl
@[simp] theorem State.setKeys_randQueue (s : State) (k : Vector Bool 16) : (s.setKeys k).randQueue = s.randQueue := rfl
@[simp] theorem State.setKeys_draws (s : State) (k : Vector Bool 16) : (s.setKeys k).draws = s.draws := rfl
@[simp] theorem State.setKeys_hostQueue (s : State) (k : Vector Bool 16) : (s.setKeys k).hostQueue = s.hostQueue := rfl
@[simp] theorem State.setKeys_reg (s : State) (k : Vector Bool 16) (r : Reg) : (s.setKeys k).reg r = s.reg r := rfl
@[simp] theorem State.setKeys_byteAt (s : State) (k : Vector Bool 16) (a : Nat) : (s.setKeys k).byteAt a = s.byteAt a := rfl
@[simp] theorem State.setKeys_pixel (s : State) (k : Vector Bool 16) (x y : Nat) : (s.setKeys k).pixel x y = s.pixel x y := rfl
@[simp] theorem State.setKeys_sp (s : State) (k : Vector Bool 16) : (s.setKeys k).sp = s.sp := rfl

/-! ### `setReg`, the flag writes, `advance`, `timerStep`: every field they leave -/

@[simp] theorem State.setReg_mem (s : State) (q : Reg) (b : Byte) : (s.setReg q b).mem = s.mem := rfl
@[simp] theorem State.setReg_i (s : State) (q : Reg) (b : Byte) : (s.setReg q b).i = s.i := rfl
@[simp] theorem State.setReg_pc (s : State) (q : Reg) (b : Byte) : (s.setReg q b).pc = s.pc := rfl
@[simp] theorem State.setReg_stack (s : State) (q : Reg) (b : Byte) : (s.setReg q b).stack = s.stack := rfl
@[simp] theorem State.setReg_dt (s : State) (q : Reg) (b : Byte) : (s.setReg q b).dt = s.dt := rfl
@[simp] theorem State.setReg_st (s : State) (q : Reg) (b : Byte) : (s.setReg q b).st = s.st := rfl
@[simp] theorem State.setReg_fb (s : State) (q : Reg) (b : Byte) : (s.setReg q b).fb = s.fb := rfl
@[simp] theorem State.setReg_params (s : State) (q : Reg) (b : Byte) : (s.setReg q b).params = s.params := rfl
@[simp] theorem State.setReg_keys (s : State) (q : Reg) (b : Byte) : (s.setReg q b).keys = s.keys := rfl
@[simp] theorem State.setReg_randQueue (s : State) (q : Reg) (b : Byte) : (s.setReg q b).randQueue = s.randQueue := rfl
@[simp] theorem State.setReg_draws (s : State) (q : Reg) (b : Byte) : (s.setReg q b).draws = s.draws := rfl
@[simp] theorem State.setReg_hostQueue (s : State) (q : Reg) (b : Byte) : (s.setReg q b).hostQueue = s.hostQueue := rfl
@[simp] theorem State.setReg_byteAt (s : State) (q : Reg) (b : Byte) (a : Nat) : (s.setReg q b).byteAt a = s.byteAt a := rfl
@[simp] theorem State.setReg_pixel (s : State) (q : Reg) (b : Byte) (x y : Nat) : (s.setReg q b).pixel x y = s.pixel x y := rfl
@[simp] theorem State.setReg_sp (s : State) (q : Reg) (b : Byte) : (s.setReg q b).sp = s.sp := rfl

@[simp] theorem State.setFlag_mem (s : State) (f : Bool) : (s.setFlag f).mem = s.mem := rfl
@[simp] theorem State.setFlag_i (s : State) (f : Bool) : (s.setFlag f).i = s.i := rfl
@[simp] theorem State.setFlag_pc (s : State) (f : Bool) : (s.setFlag f).pc = s.pc := rfl
@[simp] theorem State.setFlag_stack (s : State) (f : Bool) : (s.setFlag f).stack = s.stack := rfl
@[simp] theorem State.setFlag_dt (s : State) (f : Bool) : (s.setFlag f).dt = s.dt := rfl
@[simp] theorem State.setFlag_st (s : State) (f : Bool) : (s.setFlag f).st = s.st := rfl
@[simp] theorem State.setFlag_fb (s : State) (f : Bool) : (s.setFlag f).fb = s.fb := rfl
@[simp] theorem State.setFlag_params (s : State) (f : Bool) : (s.setFlag f).params = s.params := rfl
@[simp] theorem State.setFlag_keys (s : State) (f : Bool) : (s.setFlag f).keys = s.keys := rfl
@[simp] theorem State.setFlag_randQueue (s : State) (f : Bool) : (s.setFlag f).randQueue = s.randQueue := rfl
@[simp] theorem State.setFlag_draws (s : State) (f : Bool) : (s.setFlag f).draws = s.draws := rfl
@[simp] theorem State.setFlag_hostQueue (s : State) (f : Bool) : (s.setFlag f).hostQueue = s.hostQueue := rfl
@[simp] theorem State.setFlag_byteAt (s : State) (f : Bool) (a : Nat) : (s.setFlag f).byteAt a = s.byteAt a := rfl
@[simp] theorem State.setFlag_pixel (s : State) (f : Bool) (x y : Nat) : (s.setFlag f).pixel x y = s.pixel x y := rfl
@[simp] theorem State.setFlag_sp (s : State) (f : Bool) : (s.setFlag f).sp = s.sp := rfl

@[simp] theorem State.setFlagThenReg_mem (s : State) (f : Bool) (q : Reg) (b : Byte) : (s.setFlagThenReg f q b).mem = s.mem := rfl
@[simp] theorem State.setFlagThenReg_i (s : State) (f : Bool) (q : Reg) (b : Byte) : (s.setFlagThenReg f q b).i = s.i := rfl
@[simp] theorem State.setFlagThenReg_pc (s : State) (f : Bool) (q : Reg) (b : Byte) : (s.setFlagThenReg f q b).pc = s.pc := rfl
@[simp] theorem State.setFlagThenReg_stack (s : State) (f : Bool) (q : Reg) (b : Byte) : (s.setFlagThenReg f q b).stack = s.stack := rfl
@[simp] theorem State.setFlagThenReg_dt (s : State) (f : Bool) (q : Reg) (b : Byte) : (s.setFlagThenReg f q b).dt = s.dt := rfl
@[simp] theorem State.setFlagThenReg_st (s : State) (f : Bool) (q : Reg) (b : Byte) : (s.setFlagThenReg f q b).st = s.st := rfl
@[simp] theorem State.setFlagThenReg_fb (s : State) (f : Bool) (q : Reg) (b : Byte) : (s.setFlagThenReg f q b).fb = s.fb := rfl
@[simp] theorem State.setFlagThenReg_params (s : State) (f : Bool) (q : Reg) (b : Byte) : (s.setFlagThenReg f q b).params = s.params := rfl
@[simp] theorem State.setFlagThenReg_keys (s : State) (f : Bool) (q : Reg) (b : Byte) : (s.setFlagThenReg f q b).keys = s.keys := rfl
@[simp] theorem State.setFlagThenReg_randQueue (s : State) (f : Bool) (q : Reg) (b : Byte) : (s.setFlagThenReg f q b).randQueue = s.randQueue := rfl
@[simp] theorem State.setFlagThenReg_draws (s : State) (f : Bool) (q : Reg) (b : Byte) : (s.setFlagThenReg f q b).draws = s.draws := rfl
@[simp] theorem State.setFlagThenReg_hostQueue (s : State) (f : Bool) (q : Reg) (b : Byte) : (s.setFlagThenReg f q b).hostQueue = s.hostQueue := rfl
@[simp] theorem State.setFlagThenReg_byteAt (s : State) (f : Bool) (q : Reg) (b : Byte) (a : Nat) : (s.setFlagThenReg f q b).byteAt a = s.byteAt a := rfl
@[simp] theorem State.setFlagThenReg_pixel (s : State) (f : Bool) (q : Reg) (b : Byte) (x y : Nat) : (s.setFlagThenReg f q b).pixel x y = s.pixel x y := rfl
@[simp] theorem State.setFlagThenReg_sp (s : State) (f : Bool) (q : Reg) (b : Byte) : (s.setFlagThenReg f q b).sp = s.sp := rfl

@[simp] theorem State.advance_mem (s : State) : (s.advance).mem = s.mem := rfl
@[simp] theorem State.advance_v (s : State) : (s.advance).v = s.v := rfl
@[simp] theorem State.advance_i (s : State) : (s.advance).i = s.i := rfl
@[simp] theorem State.advance_stack (s : State) : (s.advance).stack = s.stack := rfl
@[simp] theorem State.advance_dt (s : State) : (s.advance).dt = s.dt := rfl
@[simp] theorem State.advance_st (s : State) : (s.advance).st = s.st := rfl
@[simp] theorem State.advance_fb (s : State) : (s.advance).fb = s.fb := rfl
@[simp] theorem State.advance_params (s : State) : (s.advance).params = s.params := rfl
@[simp] theorem State.advance_keys (s : State) : (s.advance).keys = s.keys := rfl
@[simp] theorem State.advance_randQueue (s : State) : (s.advance).randQueue = s.randQueue := rfl
@[simp] theorem State.advance_draws (s : State) : (s.advance).draws = s.draws := rfl
@[simp] theorem State.advance_hostQueue (s : State) : (s.advance).hostQueue = s.hostQueue := rfl
@[simp] theorem State.advance_reg (s : State) (r : Reg) : (s.advance).reg r = s.reg r := rfl
@[simp] theorem State.advance_byteAt (s : State) (a : Nat) : (s.advance).byteAt a = s.byteAt a := rfl
@[simp] theorem State.advance_pixel (s : State) (x y : Nat) : (s.advance).pixel x y = s.pixel x y := rfl
@[simp] theorem State.advance_sp (s : State) : (s.advance).sp = s.sp := rfl

@[simp] theorem State.timerStep_mem (s : State) : (s.timerStep).mem = s.mem := rfl
@[simp] theorem State.timerStep_v (s : State) : (s.timerStep).v = s.v := rfl
@[simp] theorem State.timerStep_i (s : State) : (s.timerStep).i = s.i := rfl
@[simp] theorem State.timerStep_pc (s : State) : (s.timerStep).pc = s.pc := rfl
@[simp] theorem State.timerStep_stack (s : State) : (s.timerStep).stack = s.stack := rfl
@[simp] theorem State.timerStep_fb (s : State) : (s.timerStep).fb = s.fb := rfl
@[simp] theorem State.timerStep_params (s : State) : (s.timerStep).params = s.params := rfl
@[simp] theorem State.timerStep_keys (s : State) : (s.timerStep).keys = s.keys := rfl
@[simp] theorem State.timerStep_randQueue (s : State) : (s.timerStep).randQueue = s.randQueue := rfl
@[simp] theorem State.timerStep_draws (s : State) : (s.timerStep).draws = s.draws := rfl
@[simp] theorem State.timerStep_hostQueue (s : State) : (s.timerStep).hostQueue = s.hostQueue := rfl
@[simp] theorem State.timerStep_reg (s : State) (r : Reg) : (s.timerStep).reg r = s.reg r := rfl
@[simp] theorem State.timerStep_byteAt (s : State) (a : Nat) : (s.timerStep).byteAt a = s.byteAt a := rfl
@[simp] theorem State.timerStep_pixel (s : State) (x y : Nat) : (s.timerStep).pixel x y = s.pixel x y := rfl
@[simp] theorem State.timerStep_sp (s : State) : (s.timerStep).sp = s.sp := rfl

@[simp] theorem State.eventTaken_mem (s : State) : (s.eventTaken).mem = s.mem := rfl
@[simp] theorem State.eventTaken_v (s : State) : (s.eventTaken).v = s.v := rfl
@[simp] theorem State.eventTaken_i (s : State) : (s.eventTaken).i = s.i := rfl
@[simp] theorem State.eventTaken_pc (s : State) : (s.eventTaken).pc = s.pc := rfl
@[simp] theorem State.eventTaken_stack (s : State) : (s.eventTaken).stack = s.stack := rfl
@[simp] theorem State.eventTaken_dt (s : State) : (s.eventTaken).dt = s.dt := rfl
@[simp] theorem State.eventTaken_st (s : State) : (s.eventTaken).st = s.st := rfl
@[simp] theorem State.eventTaken_fb (s : State) : (s.eventTaken).fb = s.fb := rfl
@[simp] theorem State.eventTaken_params (s : State) : (s.eventTaken).params = s.params := rfl
@[simp] theorem State.eventTaken_keys (s : State) : (s.eventTaken).keys = s.keys := rfl
@[simp] theorem State.eventTaken_randQueue (s : State) : (s.eventTaken).randQueue = s.randQueue := rfl
@[simp] theorem State.eventTaken_draws (s : State) : (s.eventTaken).draws = s.draws := rfl
@[simp] theorem State.eventTaken_reg (s : State) (r : Reg) : (s.eventTaken).reg r = s.reg r := rfl
@[simp] theorem State.eventTaken_byteAt (s : State) (a : Nat) : (s.eventTaken).byteAt a = s.byteAt a := rfl
@[simp] theorem State.eventTaken_pixel (s : State) (x y : Nat) : (s.eventTaken).pixel x y = s.pixel x y := rfl
@[simp] theorem State.eventTaken_sp (s : State) : (s.eventTaken).sp = s.sp := rfl

@[simp] theorem State.advance_pc (s : State) : s.advance.pc = s.pc + 2 := rfl
@[simp] theorem State.timerStep_dt (s : State) : s.timerStep.dt = countDown s.dt := rfl
@[simp] theorem State.timerStep_st (s : State) : s.timerStep.st = countDown s.st := rfl
@[simp] theorem State.eventTaken_hostQueue (s : State) : s.eventTaken.hostQueue = s.hostQueue.tail := rfl

/-! ### `skipIf`, `endOfTick`, `afterDraw`: the updates that branch -/

@[simp] theorem State.skipIf_pc (s : State) (b : Bool) : (s.skipIf b).pc = if b then s.pc + 4 else s.pc + 2 := by
  cases b <;> rfl

@[simp] theorem State.skipIf_mem (s : State) (b : Bool) : (s.skipIf b).mem = s.mem := by cases b <;> rfl
@[simp] theorem State.skipIf_v (s : State) (b : Bool) : (s.skipIf b).v = s.v := by cases b <;> rfl
@[simp] theorem State.skipIf_i (s : State) (b : Bool) : (s.skipIf b).i = s.i := by cases b <;> rfl
@[simp] theorem State.skipIf_stack (s : State) (b : Bool) : (s.skipIf b).stack = s.stack := by cases b <;> rfl
@[simp] theorem State.skipIf_dt (s : State) (b : Bool) : (s.skipIf b).dt = s.dt := by cases b <;> rfl
@[simp] theorem State.skipIf_st (s : State) (b : Bool) : (s.skipIf b).st = s.st := by cases b <;> rfl
@[simp] theorem State.skipIf_fb (s : State) (b : Bool) : (s.skipIf b).fb = s.fb := by cases b <;> rfl
@[simp] theorem State.skipIf_params (s : State) (b : Bool) : (s.skipIf b).params = s.params := by cases b <;> rfl
@[simp] theorem State.skipIf_keys (s : State) (b : Bool) : (s.skipIf b).keys = s.keys := by cases b <;> rfl
@[simp] theorem State.skipIf_randQueue (s : State) (b : Bool) : (s.skipIf b).randQueue = s.randQueue := by cases b <;> rfl
@[simp] theorem State.skipIf_draws (s : State) (b : Bool) : (s.skipIf b).draws = s.draws := by cases b <;> rfl
@[simp] theorem State.skipIf_hostQueue (s : State) (b : Bool) : (s.skipIf b).hostQueue = s.hostQueue := by cases b <;> rfl
@[simp] theorem State.skipIf_reg (s : State) (c : Bool) (r : Reg) : (s.skipIf c).reg r = s.reg r := by cases c <;> rfl
@[simp] theorem State.skipIf_byteAt (s : State) (c : Bool) (a : Nat) : (s.skipIf c).byteAt a = s.byteAt a := by cases c <;> rfl
@[simp] theorem State.skipIf_pixel (s : State) (c : Bool) (x y : Nat) : (s.skipIf c).pixel x y = s.pixel x y := by cases c <;> rfl
@[simp] theorem State.skipIf_sp (s : State) (c : Bool) : (s.skipIf c).sp = s.sp := by cases c <;> rfl

@[simp] theorem State.endOfTick_mem (s : State) : s.endOfTick.mem = s.mem := by unfold State.endOfTick; split <;> rfl
@[simp] theorem State.endOfTick_v (s : State) : s.endOfTick.v = s.v := by unfold State.endOfTick; split <;> rfl
@[simp] theorem State.endOfTick_i (s : State) : s.endOfTick.i = s.i := by unfold State.endOfTick; split <;> rfl
@[simp] theorem State.endOfTick_pc (s : State) : s.endOfTick.pc = s.pc := by unfold State.endOfTick; split <;> rfl
@[simp] theorem State.endOfTick_stack (s : State) : s.endOfTick.stack = s.stack := by unfold State.endOfTick; split <;> rfl
@[simp] theorem State.endOfTick_fb (s : State) : s.endOfTick.fb = s.fb := by unfold State.endOfTick; split <;> rfl
@[simp] theorem State.endOfTick_params (s : State) : s.endOfTick.params = s.params := by unfold State.endOfTick; split <;> rfl
@[simp] theorem State.endOfTick_keys (s : State) : s.endOfTick.keys = s.keys := by unfold State.endOfTick; split <;> rfl
@[simp] theorem State.endOfTick_randQueue (s : State) : s.endOfTick.randQueue = s.randQueue := by unfold State.endOfTick; split <;> rfl
@[simp] theorem State.endOfTick_draws (s : State) : s.endOfTick.draws = s.draws := by unfold State.endOfTick; split <;> rfl
@[simp] theorem State.endOfTick_hostQueue (s : State) : s.endOfTick.hostQueue = s.hostQueue := by unfold State.endOfTick; split <;> rfl
@[simp] theorem State.endOfTick_reg (s : State) (r : Reg) : s.endOfTick.reg r = s.reg r := by unfold State.endOfTick; split <;> rfl
@[simp] theorem State.endOfTick_byteAt (s : State) (a : Nat) : s.endOfTick.byteAt a = s.byteAt a := by unfold State.endOfTick; split <;> rfl
@[simp] theorem State.endOfTick_pixel (s : State) (x y : Nat) : s.endOfTick.pixel x y = s.pixel x y := by unfold State.endOfTick; split <;> rfl
@[simp] theorem State.endOfTick_sp (s : State) : s.endOfTick.sp = s.sp := by unfold State.endOfTick; split <;> rfl

@[simp] theorem State.afterDraw_mem (s : State) : s.afterDraw.mem = s.mem := by unfold State.afterDraw; split <;> rfl
@[simp] theorem State.afterDraw_v (s : State) : s.afterDraw.v = s.v := by unfold State.afterDraw; split <;> rfl
@[simp] theorem State.afterDraw_i (s : State) : s.afterDraw.i = s.i := by unfold State.afterDraw; split <;> rfl
@[simp] theorem State.afterDraw_pc (s : State) : s.afterDraw.pc = s.pc := by unfold State.afterDraw; split <;> rfl
@[simp] theorem State.afterDraw_stack (s : State) : s.afterDraw.stack = s.stack := by unfold State.afterDraw; split <;> rfl
@[simp] theorem State.afterDraw_dt (s : State) : s.afterDraw.dt = s.dt := by unfold State.afterDraw; split <;> rfl
@[simp] theorem State.afterDraw_st (s : State) : s.afterDraw.st = s.st := by unfold State.afterDraw; split <;> rfl
@[simp] theorem State.afterDraw_fb (s : State) : s.afterDraw.fb = s.fb := by unfold State.afterDraw; split <;> rfl
@[simp] theorem State.afterDraw_params (s : State) : s.afterDraw.params = s.params := by unfold State.afterDraw; split <;> rfl
@[simp] theorem State.afterDraw_keys (s : State) : s.afterDraw.keys = s.keys := by unfold State.afterDraw; split <;> rfl
@[simp] theorem State.afterDraw_hostQueue (s : State) : s.afterDraw.hostQueue = s.hostQueue := by unfold State.afterDraw; split <;> rfl
@[simp] theorem State.afterDraw_reg (s : State) (r : Reg) : s.afterDraw.reg r = s.reg r := by unfold State.afterDraw; split <;> rfl
@[simp] theorem State.afterDraw_byteAt (s : State) (a : Nat) : s.afterDraw.byteAt a = s.byteAt a := by unfold State.afterDraw; split <;> rfl
@[simp] theorem State.afterDraw_pixel (s : State) (x y : Nat) : s.afterDraw.pixel x y = s.pixel x y := by unfold State.afterDraw; split <;> rfl
@[simp] theorem State.afterDraw_sp (s : State) : s.afterDraw.sp = s.sp := by unfold State.afterDraw; split <;> rfl

theorem State.endOfTick_perTick (s : State) (h : s.params.timerPolicy = .perTick) : s.endOfTick = s.timerStep := by
  simp [State.endOfTick, h]

theorem State.endOfTick_decoupled (s : State) (h : s.params.timerPolicy = .decoupled) : s.endOfTick = s := by
  simp [State.endOfTick, h]

/-! ### Registers -/

theorem State.reg_setReg (s : State) (q r : Reg) (b : Byte) :
    (s.setReg q b).reg r = if r = q then b else s.reg r := by
  simp only [State.reg, State.setReg, State.setV_v, Vector.getElem_set, Fin.ext_iff, eq_comm (a := q.val)]

@[simp] theorem State.reg_setReg_same (s : State) (r : Reg) (b : Byte) : (s.setReg r b).reg r = b := by
  simp [State.reg_setReg]

theorem State.reg_setReg_other (s : State) {q r : Reg} (b : Byte) (h : r ≠ q) : (s.setReg q b).reg r = s.reg r := by
  simp [State.reg_setReg, h]

theorem State.reg_setFlag (s : State) (f : Bool) (r : Reg) :
    (s.setFlag f).reg r = if r = regVF then flagByte f else s.reg r := State.reg_setReg ..

theorem State.reg_setFlagThenReg (s : State) (f : Bool) (x r : Reg) (b : Byte) :
    (s.setFlagThenReg f x b).reg r = if r = x then b else if r = regVF then flagByte f else s.reg r := by
  rw [State.setFlagThenReg, State.reg_setReg, State.reg_setFlag]

/-! ### Timers -/

theorem countDown_toNat (b : Byte) : (countDown b).toNat = b.toNat - 1 := by
  unfold countDown; split
  · subst b; rfl
  · bv_omega

end Sys2Proof.Machine
end

