-- ==== Sys2Proof/Laws/Memory.lean ====
section
/-! SUPPORT. Memory: a read after a write, the canonical form kept by every operation, and equal reads make equal
memories; runs of bytes read and written. -/
namespace Sys2Proof.Machine

/-! ### One byte -/

theorem Memory.read_filter_same (m : Memory) (a : Nat) :
    Memory.read (m.filter fun c => c.1 ≠ a) a = background a := by
  induction m with
  | nil => rfl
  | cons c m ih =>
    by_cases h : c.1 = a
    · simpa [h] using ih
    · simp only [List.filter_cons, h, ne_eq, not_false_eq_true, decide_true, if_true, Memory.read, Ne.symm h,
        if_false]
      simpa using ih

theorem Memory.read_filter_other (m : Memory) {a b : Nat} (h : b ≠ a) :
    Memory.read (m.filter fun c => c.1 ≠ a) b = m.read b := by
  induction m with
  | nil => rfl
  | cons c m ih =>
    by_cases hc : c.1 = a
    · have hb : b ≠ c.1 := fun e => h (e.trans hc)
      rw [List.filter_cons_of_neg (by simp [hc]), ih, Memory.read, if_neg hb]
    · rw [List.filter_cons_of_pos (by simp [hc]), Memory.read, Memory.read, ih]

theorem Memory.read_insertCell (m : Memory) (a : Nat) (x : Byte) (b : Nat) (h : ∀ c ∈ m, c.1 ≠ a) :
    (Memory.insertCell a x m).read b = if b = a then x else m.read b := by
  induction m with
  | nil => rfl
  | cons c m ih =>
    have hc : c.1 ≠ a := h c (by simp)
    unfold Memory.insertCell
    split
    · rfl
    · rw [Memory.read, ih fun d hd => h d (by simp [hd]), Memory.read]
      by_cases hb : b = c.1
      · have : b ≠ a := fun e => hc (hb ▸ e)
        simp [hb, hc]
      · simp [hb]

/-- A read after a write gives the byte written at its address and the old byte everywhere else (rule R65). -/
theorem Memory.read_write (m : Memory) (a : Nat) (x : Byte) (b : Nat) :
    (m.write a x).read b = if b = a then x else m.read b := by
  unfold Memory.write
  by_cases hb : b = a
  · subst hb
    split
    · next hx => simpa [hx] using Memory.read_filter_same m b
    · rw [Memory.read_insertCell _ _ _ _ (by simp), if_pos rfl, if_pos rfl]
  · split
    · simpa [hb] using Memory.read_filter_other m hb
    · rw [Memory.read_insertCell _ _ _ _ (by simp), Memory.read_filter_other m hb, if_neg hb]

theorem Memory.wf_nil : Memory.wf [] := by simp [Memory.wf]

theorem Memory.wf_filter {m : Memory} (h : m.wf) (a : Nat) : Memory.wf (m.filter fun c => c.1 ≠ a) :=
  ⟨h.1.filter _, fun c hc => h.2 c (List.mem_of_mem_filter hc)⟩

theorem Memory.mem_insertCell {m : Memory} {a : Nat} {x : Byte} {c : Host.Cell} :
    c ∈ Memory.insertCell a x m ↔ c = (a, x) ∨ c ∈ m := by
  induction m with
  | nil => simp [Memory.insertCell]
  | cons d m ih =>
    unfold Memory.insertCell
    split
    · simp
    · simp only [List.mem_cons, ih]; tauto

theorem Memory.pairwise_insertCell {m : Memory} {a : Nat} {x : Byte} (h : m.Pairwise fun c d => c.1 < d.1)
    (ha : ∀ c ∈ m, c.1 ≠ a) : (Memory.insertCell a x m).Pairwise fun c d => c.1 < d.1 := by
  induction m with
  | nil => simp [Memory.insertCell]
  | cons d m ih =>
    rw [List.pairwise_cons] at h
    unfold Memory.insertCell
    split
    · next hlt =>
      refine List.pairwise_cons.2 ⟨fun c hc => ?_, List.pairwise_cons.2 h⟩
      rcases List.mem_cons.1 hc with rfl | hc
      · exact hlt
      · exact Nat.lt_trans hlt (h.1 c hc)
    · next hge =>
      have hd : d.1 ≠ a := ha d (by simp)
      refine List.pairwise_cons.2 ⟨fun c hc => ?_, ih h.2 fun c hc => ha c (by simp [hc])⟩
      rcases Memory.mem_insertCell.1 hc with rfl | hc
      · show d.1 < a
        omega
      · exact h.1 c hc

/-- A write inside the 4096 cells keeps the canonical form. -/
theorem Memory.wf_write {m : Memory} (h : m.wf) {a : Nat} (ha : a < 4096) (x : Byte) : (m.write a x).wf := by
  unfold Memory.write
  split
  · exact Memory.wf_filter h a
  · next hx =>
    refine ⟨Memory.pairwise_insertCell (Memory.wf_filter h a).1 (by simp), fun c hc => ?_⟩
    rcases Memory.mem_insertCell.1 hc with rfl | hc
    · exact ⟨ha, hx⟩
    · exact (Memory.wf_filter h a).2 c hc

theorem Memory.read_of_not_listed {m : Memory} {a : Nat} (h : ∀ c ∈ m, c.1 ≠ a) : m.read a = background a := by
  induction m with
  | nil => rfl
  | cons c m ih =>
    rw [Memory.read, if_neg (Ne.symm (h c (by simp))), ih fun d hd => h d (by simp [hd])]

theorem Memory.read_of_listed {m : Memory} (h : m.wf) {c : Host.Cell} (hc : c ∈ m) : m.read c.1 = c.2 := by
  induction m with
  | nil => simp at hc
  | cons d m ih =>
    have hp := List.pairwise_cons.1 h.1
    rcases List.mem_cons.1 hc with rfl | hm
    · simp [Memory.read]
    · rw [Memory.read, if_neg (by have := hp.1 c hm; omega), ih ⟨hp.2, fun e he => h.2 e (by simp [he])⟩ hm]

theorem Memory.listed_iff {m : Memory} (h : m.wf) (a : Nat) (x : Byte) :
    (a, x) ∈ m ↔ m.read a = x ∧ x ≠ background a := by
  constructor
  · intro hm
    exact ⟨Memory.read_of_listed h hm, (h.2 _ hm).2⟩
  · rintro ⟨hr, hx⟩
    by_contra hn
    have : ∀ c ∈ m, c.1 ≠ a := by
      rintro ⟨b, y⟩ hc (rfl : b = a)
      have hy : m.read b = y := Memory.read_of_listed h hc
      exact hn (by rw [← hr, hy]; exact hc)
    exact hx (hr ▸ Memory.read_of_not_listed this)

/-- Two memories in canonical form that read the same everywhere are the same list. -/
theorem Memory.ext_of_wf {m n : Memory} (hm : m.wf) (hn : n.wf) (h : ∀ a, m.read a = n.read a) : m = n := by
  have hp : m.Perm n := by
    refine (List.perm_ext_iff_of_nodup ?_ ?_).2 fun ⟨a, x⟩ => ?_
    · exact hm.1.imp fun hlt e => by subst e; omega
    · exact hn.1.imp fun hlt e => by subst e; omega
    · rw [Memory.listed_iff hm, Memory.listed_iff hn, h]
  refine hp.eq_of_pairwise (le := fun c d => c.1 < d.1) (fun c d _ _ h1 h2 => ?_) hm.1 hn.1
  omega

/-! ### Runs of bytes -/

theorem Memory.readBytes_length (m : Memory) (a n : Nat) : (m.readBytes a n).length = n := by
  induction n generalizing a with
  | zero => rfl
  | succ n ih => simp [Memory.readBytes, ih]

theorem Memory.readBytes_getElem (m : Memory) (a n k : Nat) (h : k < (m.readBytes a n).length) :
    (m.readBytes a n)[k] = m.read (a + k) := by
  induction n generalizing a k with
  | zero => simp [Memory.readBytes] at h
  | succ n ih =>
    cases k with
    | zero => rfl
    | succ k =>
      simp only [Memory.readBytes, List.getElem_cons_succ, ih]
      congr 1; omega

theorem Memory.readBytes_congr {m n : Memory} (h : ∀ a, m.read a = n.read a) (a k : Nat) :
    m.readBytes a k = n.readBytes a k := by
  induction k generalizing a with
  | zero => rfl
  | succ k ih => simp [Memory.readBytes, h, ih]

/-- After a run of bytes is written, its addresses read the bytes in order and every other address reads as before. -/
theorem Memory.read_writeBytes (m : Memory) (a : Nat) (bs : List Byte) (b : Nat) :
    (m.writeBytes a bs).read b = if h : a ≤ b ∧ b - a < bs.length then bs[b - a]'h.2 else m.read b := by
  induction bs generalizing m a with
  | nil => simp [Memory.writeBytes]
  | cons x bs ih =>
    rw [Memory.writeBytes, ih, Memory.read_write]
    by_cases hlt : b < a
    · rw [dif_neg (by omega), dif_neg (by omega), if_neg (by omega)]
    · obtain ⟨k, rfl⟩ := Nat.exists_eq_add_of_le (Nat.le_of_not_lt hlt)
      cases k with
      | zero => simp
      | succ k =>
        have e1 : a + (k + 1) - (a + 1) = k := by omega
        have e2 : a + (k + 1) - a = k + 1 := by omega
        simp only [e1, e2, List.length_cons]
        by_cases hk : k < bs.length
        · rw [dif_pos ⟨by omega, hk⟩, dif_pos ⟨by omega, by omega⟩]; simp
        · rw [dif_neg (by omega), dif_neg (by omega), if_neg (by omega)]

theorem Memory.read_writeBytes_outside (m : Memory) {a : Nat} {bs : List Byte} {b : Nat}
    (h : b < a ∨ a + bs.length ≤ b) : (m.writeBytes a bs).read b = m.read b := by
  rw [Memory.read_writeBytes, dif_neg (by omega)]

theorem Memory.read_writeBytes_inside (m : Memory) (a : Nat) (bs : List Byte) (k : Nat) (h : k < bs.length) :
    (m.writeBytes a bs).read (a + k) = bs[k] := by
  rw [Memory.read_writeBytes, dif_pos ⟨by omega, by omega⟩]
  congr 1; omega

/-- A run of bytes written inside the 4096 cells keeps the canonical form. -/
theorem Memory.wf_writeBytes {m : Memory} (h : m.wf) {a : Nat} {bs : List Byte} (hb : a + bs.length ≤ 4096) :
    (m.writeBytes a bs).wf := by
  induction bs generalizing m a with
  | nil => exact h
  | cons x bs ih =>
    simp only [List.length_cons] at hb
    exact ih (Memory.wf_write h (by omega) x) (by omega)

end Sys2Proof.Machine
end

