-- ==== Sys2Proof/Laws/Ops.lean ====
section
/-! SUPPORT. What each shared operation can do, once: the bound check, push, pop, the fetch, the timer step of a tick,
the register fill, the key choice. -/
namespace Sys2Proof.Machine

/-! ### The bound check (rule R64) -/

theorem offendingAddress_eq_none {base k : Nat} : offendingAddress base k = none ↔ k = 0 ∨ base + k ≤ 4096 := by
  simp only [offendingAddress, Config.addrMax, ite_eq_right_iff, reduceCtorEq, imp_false]; omega

theorem offendingAddress_eq_some {base k a : Nat} :
    offendingAddress base k = some a ↔ k ≠ 0 ∧ 4096 < base + k ∧ a = if 4095 < base then base else 4096 := by
  simp only [offendingAddress, Config.addrMax]
  split
  · simp only [Option.some.injEq, eq_comm (b := a), Nat.reduceAdd]; omega
  · simp only [reduceCtorEq, false_iff]; omega

/-- An access in range goes on. -/
theorem checkAccess_ok {base k : Nat} (h : k = 0 ∨ base + k ≤ 4096) (body : Result) : checkAccess base k body = body := by
  simp [checkAccess, offendingAddress_eq_none.2 h]

/-- An access out of range faults with the lowest address above 4095. -/
theorem checkAccess_fault {base k : Nat} (hk : k ≠ 0) (h : 4096 < base + k) (body : Result) :
    checkAccess base k body = .fault (.memoryOutOfBounds (if 4095 < base then base else 4096)) := by
  simp [checkAccess, offendingAddress_eq_some.2 ⟨hk, h, rfl⟩, raise]

/-- A checked access answers what its body answers, in range, or the fault, out of range. -/
theorem checkAccess_cases (base k : Nat) (body : Result) :
    (k = 0 ∨ base + k ≤ 4096) ∧ checkAccess base k body = body ∨
    (k ≠ 0 ∧ 4096 < base + k) ∧
      checkAccess base k body = .fault (.memoryOutOfBounds (if 4095 < base then base else 4096)) := by
  by_cases h : k = 0 ∨ base + k ≤ 4096
  · exact .inl ⟨h, checkAccess_ok h body⟩
  · exact .inr ⟨by omega, checkAccess_fault (by omega) (by omega) body⟩

theorem checkAccess_next {base k : Nat} {body : Result} {t : State} (h : checkAccess base k body = .next t) :
    (k = 0 ∨ base + k ≤ 4096) ∧ body = .next t := by
  rcases checkAccess_cases base k body with ⟨hr, e⟩ | ⟨-, e⟩ <;> rw [e] at h
  · exact ⟨hr, h⟩
  · cases h

/-! ### Stack (rules R27, R28) -/

theorem push_ok {s : State} (h : s.sp ≠ s.params.stackDepth) (a : Word) (body : State → Result) :
    push s a body = body (s.setStack (s.stack ++ [a])) := by simp [push, h]

theorem push_full {s : State} (h : s.sp = s.params.stackDepth) (a : Word) (body : State → Result) :
    push s a body = .fault .stackOverflow := by simp [push, h, raise]

theorem pop_concat {s : State} {l : List Word} {a : Word} (h : s.stack = l ++ [a]) (body : Word → State → Result) :
    pop s body = body a (s.setStack l) := by simp [pop, h]

theorem pop_empty {s : State} (h : s.stack = []) (body : Word → State → Result) :
    pop s body = .fault .stackUnderflow := by simp [pop, h, raise]

theorem pop_cases (s : State) (body : Word → State → Result) :
    s.stack = [] ∧ pop s body = .fault .stackUnderflow ∨
    ∃ l a, s.stack = l ++ [a] ∧ pop s body = body a (s.setStack l) := by
  rcases List.eq_nil_or_concat s.stack with h | ⟨l, a, h⟩
  · exact .inl ⟨h, pop_empty h body⟩
  · have h' : s.stack = l ++ [a] := by simpa using h
    exact .inr ⟨l, a, h', pop_concat h' body⟩

/-! ### Timer step of a tick (rules R128, R130) -/

theorem timersAfter_next {r : Result} {u : State} (h : timersAfter r = .next u) : ∃ t, r = .next t ∧ u = t.endOfTick := by
  cases r with
  | next t => exact ⟨t, rfl, by simpa [timersAfter] using h.symm⟩
  | fault f => cases h
  | refused r => cases h

theorem timersAfter_fault {r : Result} {f : Fault} : timersAfter r = .fault f ↔ r = .fault f := by
  cases r <;> simp [timersAfter]

theorem timersAfter_refused {r : Result} {q : Refusal} : timersAfter r = .refused q ↔ r = .refused q := by
  cases r <;> simp [timersAfter]

/-! ### Fetch (rule R123) -/

theorem fetch_ok {s : State} (h : s.pc.toNat ≤ 4094) :
    fetch s = .ok (wordOfBytes (s.byteAt s.pc.toNat) (s.byteAt (s.pc.toNat + 1))) := by
  simp [fetch, offendingAddress_eq_none.2 (show 2 = 0 ∨ s.pc.toNat + 2 ≤ 4096 by omega)]

theorem fetch_error {s : State} (h : 4094 < s.pc.toNat) :
    fetch s = .error (.memoryOutOfBounds (if 4095 < s.pc.toNat then s.pc.toNat else 4096)) := by
  simp [fetch, offendingAddress_eq_some.2 ⟨by decide, (show 4096 < s.pc.toNat + 2 by omega), rfl⟩]

/-- What one tick can do (rules R122, R279): a fetch fault, a decode fault, or the decoded instruction. -/
theorem tick_cases (s : State) :
    (4094 < s.pc.toNat ∧
      tick s = .fault (.memoryOutOfBounds (if 4095 < s.pc.toNat then s.pc.toNat else 4096))) ∨
    (s.pc.toNat ≤ 4094 ∧ ∃ w, fetch s = .ok w ∧
      ((decodeWord w = none ∧ tick s = .fault (.unrecognizedInstruction w s.pc)) ∨
       ∃ i, decodeWord w = some i ∧ tick s = timersAfter (exec i s))) := by
  by_cases h : s.pc.toNat ≤ 4094
  · refine .inr ⟨h, _, fetch_ok h, ?_⟩
    simp only [tick, fetch_ok h]
    cases decodeWord (wordOfBytes (s.byteAt s.pc.toNat) (s.byteAt (s.pc.toNat + 1))) with
    | none => exact .inl ⟨rfl, rfl⟩
    | some i => exact .inr ⟨i, rfl, rfl⟩
  · exact .inl ⟨by omega, by simp [tick, fetch_error (show 4094 < s.pc.toNat by omega), raise]⟩

/-! ### Register fill (rule R244) -/

theorem fillRegs_getElem (v : Vector Byte 16) (k : Nat) (bs : List Byte) (j : Nat) (hj : j < 16) :
    (fillRegs v k bs)[j] = if h : k ≤ j ∧ j - k < bs.length then bs[j - k]'h.2 else v[j] := by
  induction bs generalizing v k with
  | nil => simp [fillRegs]
  | cons b bs ih =>
    rw [fillRegs, ih]
    by_cases hlt : j < k
    · rw [dif_neg (by omega), dif_neg (by omega), Vector.getElem_setIfInBounds, if_neg (by omega)]
    · obtain ⟨d, rfl⟩ := Nat.exists_eq_add_of_le (Nat.le_of_not_lt hlt)
      cases d with
      | zero => simp
      | succ d =>
        have e1 : k + (d + 1) - (k + 1) = d := by omega
        have e2 : k + (d + 1) - k = d + 1 := by omega
        simp only [e1, e2, List.length_cons]
        by_cases hd : d < bs.length
        · rw [dif_pos ⟨by omega, hd⟩, dif_pos ⟨by omega, by omega⟩]; simp
        · rw [dif_neg (by omega), dif_neg (by omega), Vector.getElem_setIfInBounds, if_neg (by omega)]

theorem State.lowRegs_length (s : State) (x : Reg) : (s.lowRegs x).length = regCount x := by
  simp [State.lowRegs, regCount]

theorem State.lowRegs_getElem (s : State) (x : Reg) (k : Nat) (h : k < (s.lowRegs x).length) :
    (s.lowRegs x)[k] = s.reg ⟨k, by rw [State.lowRegs_length, regCount] at h; omega⟩ := by
  simp [State.lowRegs, State.reg]

/-! ### Keys (rules R222 to R225) -/

theorem State.keyLine_inRange {s : State} {k : Byte} (h : k.toNat < 16) : s.keyLine k = some s.keys[k.toNat] := by
  simp [State.keyLine, h]

theorem State.keyLine_none {s : State} {k : Byte} :
    s.keyLine k = none ↔ 15 < k.toNat ∧ s.params.keyRangePolicy = .fault := by
  unfold State.keyLine
  split
  · simp; omega
  · split <;> (simp_all; try omega)

theorem lowestDown_eq_none {keys : Vector Bool 16} : lowestDown keys = none ↔ ∀ k : Fin 16, keys[k.val] = false := by
  simp only [lowestDown, List.find?_eq_none, Bool.not_eq_true]
  constructor
  · intro h k
    exact h k (by fin_cases k <;> simp)
  · exact fun h k _ => h k

theorem lowestDown_eq_some {keys : Vector Bool 16} {k : Fin 16} (h : lowestDown keys = some k) :
    keys[k.val] = true ∧ ∀ j : Fin 16, j < k → keys[j.val] = false := by
  obtain ⟨hk, as, bs, he, hbefore⟩ := List.find?_eq_some_iff_append.1 h
  refine ⟨hk, fun j hj => ?_⟩
  have hmem : j ∈ as ++ k :: bs := by rw [← he]; fin_cases j <;> simp
  have hsorted : (as ++ k :: bs).Pairwise (· < ·) := by rw [← he]; decide
  rcases List.mem_append.1 hmem with hj' | hj'
  · simpa using hbefore j hj'
  · have := (List.pairwise_append.1 hsorted).2.1
    rcases List.mem_cons.1 hj' with rfl | hj'
    · exact absurd hj (lt_irrefl _)
    · exact absurd ((List.pairwise_cons.1 this).1 j hj') (not_lt.2 hj.le)

theorem State.selectedKey_eq_none {s : State} : s.selectedKey = none ↔ ∀ k : Fin 16, s.keys[k.val] = false := by
  rw [← lowestDown_eq_none, State.selectedKey]
  cases lowestDown s.keys with
  | none => simp
  | some k => cases s.params.keySelect with
    | lowest => simp
    | anyDown => simp only [reduceCtorEq, iff_false]; split <;> simp

/-- Whatever the selection policy, the key captured is one that is down. -/
theorem State.selectedKey_down {s : State} {k : Fin 16} (h : s.selectedKey = some k) : s.keys[k.val] = true := by
  unfold State.selectedKey at h
  split at h
  · cases h
  · next j hj =>
    split at h
    · cases h; exact (lowestDown_eq_some hj).1
    · split at h
      · next hc => cases h; exact hc
      · cases h; exact (lowestDown_eq_some hj).1

theorem State.selectedKey_lowest {s : State} (h : s.params.keySelect = .lowest) : s.selectedKey = lowestDown s.keys := by
  unfold State.selectedKey
  cases lowestDown s.keys <;> simp [h]

end Sys2Proof.Machine
end

