-- ==== Sys2Proof/Laws/PerInstr.lean ====
section
/-! SUPPORT. Per instruction: the family `EncodesToItsRow`, that an instruction's opcode is selected by its own row of
rule R96. -/
namespace Sys2Proof.Laws.EncodesToItsRow

/-- The opcode of `i` matches the row of the opcode map that has `i`'s pattern. -/
def Statement (i : Instr) : Prop := ∃ r ∈ opcodeRows, r.pattern = i.pattern ∧ r.selects (encode i) = true

theorem and_nibbleOnes (a : BitVec 4) : a &&& 15#4 = a := BitVec.and_allOnes

theorem and_byteOnes (a : BitVec 8) : a &&& 255#8 = a := BitVec.and_allOnes

theorem formatA_masked (op : BitVec 4) (nnn : BitVec 12) : formatA op nnn &&& 0xF000#16 = formatA op 0 := by
  rw [show (0xF000#16 : Word) = (0xF#4 ++ 0x000#12 : Word) from rfl, formatA, BitVec.and_append]
  simp [formatA, and_nibbleOnes]

theorem formatXI_masked (op : BitVec 4) (x : Reg) (nn : Byte) :
    formatXI op x nn &&& 0xF000#16 = formatXI op 0 0 := by
  rw [show (0xF000#16 : Word) = (0xF#4 ++ 0x0#4 ++ 0x00#8 : Word) from rfl, formatXI, BitVec.and_append,
    BitVec.and_append]
  simp [formatXI, regBits, and_nibbleOnes]

theorem formatXF_masked (op : BitVec 4) (x : Reg) (nn : Byte) :
    formatXI op x nn &&& 0xF0FF#16 = formatXI op 0 nn := by
  rw [show (0xF0FF#16 : Word) = (0xF#4 ++ 0x0#4 ++ 0xFF#8 : Word) from rfl, formatXI, BitVec.and_append,
    BitVec.and_append]
  simp [formatXI, regBits, and_nibbleOnes, and_byteOnes]

theorem formatXY_masked (op : BitVec 4) (x y : Reg) (n : BitVec 4) :
    formatXYN op x y n &&& 0xF00F#16 = formatXYN op 0 0 n := by
  rw [show (0xF00F#16 : Word) = (0xF#4 ++ 0x0#4 ++ 0x0#4 ++ 0xF#4 : Word) from rfl, formatXYN, BitVec.and_append,
    BitVec.and_append, BitVec.and_append]
  simp [formatXYN, regBits, and_nibbleOnes]

theorem formatXYN_masked (op : BitVec 4) (x y : Reg) (n : BitVec 4) :
    formatXYN op x y n &&& 0xF000#16 = formatXYN op 0 0 0 := by
  rw [show (0xF000#16 : Word) = (0xF#4 ++ 0x0#4 ++ 0x0#4 ++ 0x0#4 : Word) from rfl, formatXYN, BitVec.and_append,
    BitVec.and_append, BitVec.and_append]
  simp [formatXYN, regBits, and_nibbleOnes]

theorem cls : Statement (.cls) :=
  ⟨⟨"00E0", 0xFFFF, 0x00E0⟩, by decide, rfl, by decide⟩
theorem ret : Statement (.ret) :=
  ⟨⟨"00EE", 0xFFFF, 0x00EE⟩, by decide, rfl, by decide⟩
theorem modesw : Statement (.modesw) :=
  ⟨⟨"00FF", 0xFFFF, 0x00FF⟩, by decide, rfl, by decide⟩
theorem jp (nnn : BitVec 12) : Statement (.jp nnn) :=
  ⟨⟨"1NNN", 0xF000, 0x1000⟩, by decide, rfl, beq_iff_eq.2 (formatA_masked ..)⟩
theorem call (nnn : BitVec 12) : Statement (.call nnn) :=
  ⟨⟨"2NNN", 0xF000, 0x2000⟩, by decide, rfl, beq_iff_eq.2 (formatA_masked ..)⟩
theorem seImm (x : Reg) (nn : Byte) : Statement (.seImm x nn) :=
  ⟨⟨"3XNN", 0xF000, 0x3000⟩, by decide, rfl, beq_iff_eq.2 (formatXI_masked ..)⟩
theorem sneImm (x : Reg) (nn : Byte) : Statement (.sneImm x nn) :=
  ⟨⟨"4XNN", 0xF000, 0x4000⟩, by decide, rfl, beq_iff_eq.2 (formatXI_masked ..)⟩
theorem seReg (x y : Reg) : Statement (.seReg x y) :=
  ⟨⟨"5XY0", 0xF00F, 0x5000⟩, by decide, rfl, beq_iff_eq.2 (formatXY_masked ..)⟩
theorem ldImm (x : Reg) (nn : Byte) : Statement (.ldImm x nn) :=
  ⟨⟨"6XNN", 0xF000, 0x6000⟩, by decide, rfl, beq_iff_eq.2 (formatXI_masked ..)⟩
theorem addImm (x : Reg) (nn : Byte) : Statement (.addImm x nn) :=
  ⟨⟨"7XNN", 0xF000, 0x7000⟩, by decide, rfl, beq_iff_eq.2 (formatXI_masked ..)⟩
theorem ldReg (x y : Reg) : Statement (.ldReg x y) :=
  ⟨⟨"8XY0", 0xF00F, 0x8000⟩, by decide, rfl, beq_iff_eq.2 (formatXY_masked ..)⟩
theorem orReg (x y : Reg) : Statement (.orReg x y) :=
  ⟨⟨"8XY1", 0xF00F, 0x8001⟩, by decide, rfl, beq_iff_eq.2 (formatXY_masked ..)⟩
theorem andReg (x y : Reg) : Statement (.andReg x y) :=
  ⟨⟨"8XY2", 0xF00F, 0x8002⟩, by decide, rfl, beq_iff_eq.2 (formatXY_masked ..)⟩
theorem xorReg (x y : Reg) : Statement (.xorReg x y) :=
  ⟨⟨"8XY3", 0xF00F, 0x8003⟩, by decide, rfl, beq_iff_eq.2 (formatXY_masked ..)⟩
theorem addReg (x y : Reg) : Statement (.addReg x y) :=
  ⟨⟨"8XY4", 0xF00F, 0x8004⟩, by decide, rfl, beq_iff_eq.2 (formatXY_masked ..)⟩
theorem subReg (x y : Reg) : Statement (.subReg x y) :=
  ⟨⟨"8XY5", 0xF00F, 0x8005⟩, by decide, rfl, beq_iff_eq.2 (formatXY_masked ..)⟩
theorem shr (x y : Reg) : Statement (.shr x y) :=
  ⟨⟨"8XY6", 0xF00F, 0x8006⟩, by decide, rfl, beq_iff_eq.2 (formatXY_masked ..)⟩
theorem subn (x y : Reg) : Statement (.subn x y) :=
  ⟨⟨"8XY7", 0xF00F, 0x8007⟩, by decide, rfl, beq_iff_eq.2 (formatXY_masked ..)⟩
theorem shl (x y : Reg) : Statement (.shl x y) :=
  ⟨⟨"8XYE", 0xF00F, 0x800E⟩, by decide, rfl, beq_iff_eq.2 (formatXY_masked ..)⟩
theorem sneReg (x y : Reg) : Statement (.sneReg x y) :=
  ⟨⟨"9XY0", 0xF00F, 0x9000⟩, by decide, rfl, beq_iff_eq.2 (formatXY_masked ..)⟩
theorem ldI (nnn : BitVec 12) : Statement (.ldI nnn) :=
  ⟨⟨"ANNN", 0xF000, 0xA000⟩, by decide, rfl, beq_iff_eq.2 (formatA_masked ..)⟩
theorem jpV0 (nnn : BitVec 12) : Statement (.jpV0 nnn) :=
  ⟨⟨"BNNN", 0xF000, 0xB000⟩, by decide, rfl, beq_iff_eq.2 (formatA_masked ..)⟩
theorem rnd (x : Reg) (nn : Byte) : Statement (.rnd x nn) :=
  ⟨⟨"CXNN", 0xF000, 0xC000⟩, by decide, rfl, beq_iff_eq.2 (formatXI_masked ..)⟩
theorem drw (x y : Reg) (n : Nat) : Statement (.drw x y n) :=
  ⟨⟨"DXYN", 0xF000, 0xD000⟩, by decide, rfl, beq_iff_eq.2 (formatXYN_masked ..)⟩
theorem skp (x : Reg) : Statement (.skp x) :=
  ⟨⟨"EX9E", 0xF0FF, 0xE09E⟩, by decide, rfl, beq_iff_eq.2 (formatXF_masked ..)⟩
theorem sknp (x : Reg) : Statement (.sknp x) :=
  ⟨⟨"EXA1", 0xF0FF, 0xE0A1⟩, by decide, rfl, beq_iff_eq.2 (formatXF_masked ..)⟩
theorem ldRegDt (x : Reg) : Statement (.ldRegDt x) :=
  ⟨⟨"FX07", 0xF0FF, 0xF007⟩, by decide, rfl, beq_iff_eq.2 (formatXF_masked ..)⟩
theorem ldRegKey (x : Reg) : Statement (.ldRegKey x) :=
  ⟨⟨"FX0A", 0xF0FF, 0xF00A⟩, by decide, rfl, beq_iff_eq.2 (formatXF_masked ..)⟩
theorem ldDtReg (x : Reg) : Statement (.ldDtReg x) :=
  ⟨⟨"FX15", 0xF0FF, 0xF015⟩, by decide, rfl, beq_iff_eq.2 (formatXF_masked ..)⟩
theorem ldStReg (x : Reg) : Statement (.ldStReg x) :=
  ⟨⟨"FX18", 0xF0FF, 0xF018⟩, by decide, rfl, beq_iff_eq.2 (formatXF_masked ..)⟩
theorem addI (x : Reg) : Statement (.addI x) :=
  ⟨⟨"FX1E", 0xF0FF, 0xF01E⟩, by decide, rfl, beq_iff_eq.2 (formatXF_masked ..)⟩
theorem ldGlyph (x : Reg) : Statement (.ldGlyph x) :=
  ⟨⟨"FX29", 0xF0FF, 0xF029⟩, by decide, rfl, beq_iff_eq.2 (formatXF_masked ..)⟩
theorem ldBcd (x : Reg) : Statement (.ldBcd x) :=
  ⟨⟨"FX33", 0xF0FF, 0xF033⟩, by decide, rfl, beq_iff_eq.2 (formatXF_masked ..)⟩
theorem storeRegs (x : Reg) : Statement (.storeRegs x) :=
  ⟨⟨"FX55", 0xF0FF, 0xF055⟩, by decide, rfl, beq_iff_eq.2 (formatXF_masked ..)⟩
theorem loadRegs (x : Reg) : Statement (.loadRegs x) :=
  ⟨⟨"FX65", 0xF0FF, 0xF065⟩, by decide, rfl, beq_iff_eq.2 (formatXF_masked ..)⟩

end Sys2Proof.Laws.EncodesToItsRow
end

