-- ==== Sys2Proof/Laws/Screen.lean ====
section
/-! SUPPORT. The framebuffer cell by cell: what one `draw_pixel` and one sprite draw do to every cell and to the
collision flag (rules R201 to R206). -/
namespace Sys2Proof.Machine

theorem Framebuffer.cell_clear (x y : Nat) : Framebuffer.clear.cell x y = false := by
  simp [Framebuffer.clear, Framebuffer.cell]

theorem Framebuffer.cell_setCell (f : Framebuffer) (x y : Nat) (b : Bool) (u v : Nat) :
    (f.setCell x y b).cell u v = if u % 64 = x % 64 ∧ v % 32 = y % 32 then b else f.cell u v := by
  unfold Framebuffer.setCell Framebuffer.cell
  by_cases hv : v % 32 = y % 32
  · by_cases hu : u % 64 = x % 64
    · simp [hu, hv]
    · simp [hu, hv, Ne.symm hu]
  · simp [hv, Ne.symm hv]

/-- Cells are all there is to a framebuffer. -/
theorem Framebuffer.ext_cell {f g : Framebuffer} (h : ∀ x < 64, ∀ y < 32, f.cell x y = g.cell x y) : f = g := by
  refine Vector.ext fun y hy => Vector.ext fun x hx => ?_
  simpa [Framebuffer.cell, Nat.mod_eq_of_lt hx, Nat.mod_eq_of_lt hy] using h x hx y hy

/-- `draw_pixel` toggles its cell and no other (rule R201). -/
theorem Framebuffer.cell_drawPixel (f : Framebuffer) (x y u v : Nat) :
    (f.drawPixel x y).1.cell u v = (f.cell u v ^^ decide (u % 64 = x % 64 ∧ v % 32 = y % 32)) := by
  rw [Framebuffer.drawPixel, Framebuffer.cell_setCell]
  split
  · next h =>
    have : f.cell x y = f.cell u v := by simp [Framebuffer.cell, h.1, h.2]
    simp [h, this]
  · next h => simp [h]

/-- A cell named by coordinates of any size. -/
abbrev sameCell (p q : Nat × Nat) : Prop := p.1 % 64 = q.1 % 64 ∧ p.2 % 32 = q.2 % 32

/-- Drawing cells that are pairwise different toggles exactly those cells (rule R204, corner case (e)). -/
theorem cell_drawCells {ps : List (Nat × Nat)} (h : ps.Pairwise fun p q => ¬ sameCell p q) (f : Framebuffer) (c : Bool)
    (u v : Nat) : (drawCells f c ps).1.cell u v = (f.cell u v ^^ decide (∃ p ∈ ps, sameCell (u, v) p)) := by
  induction ps generalizing f c with
  | nil => simp [drawCells]
  | cons p ps ih =>
    obtain ⟨hp, hps⟩ := List.pairwise_cons.1 h
    rw [drawCells, ih hps, Framebuffer.cell_drawPixel, Bool.xor_assoc]
    congr 1
    by_cases h1 : sameCell (u, v) p
    · have h2 : ¬ ∃ q ∈ ps, sameCell (u, v) q := by
        rintro ⟨q, hq, e⟩
        exact hp q hq ⟨h1.1.symm.trans e.1, h1.2.symm.trans e.2⟩
      have h3 : ∃ q ∈ p :: ps, sameCell (u, v) q := ⟨p, by simp, h1⟩
      simp only [h2, h3, decide_false, decide_true, Bool.xor_false]
      exact decide_eq_true h1
    · have h3 : (∃ q ∈ p :: ps, sameCell (u, v) q) ↔ ∃ q ∈ ps, sameCell (u, v) q := by simp [h1]
      simp only [h3]
      rw [decide_eq_false h1, Bool.false_xor]

theorem cell_drawCells_hit {ps : List (Nat × Nat)} (h : ps.Pairwise fun p q => ¬ sameCell p q) (f : Framebuffer)
    (c : Bool) {u v : Nat} (hit : ∃ p ∈ ps, sameCell (u, v) p) : (drawCells f c ps).1.cell u v = !f.cell u v := by
  rw [cell_drawCells h, decide_eq_true hit, Bool.xor_true]

theorem cell_drawCells_miss {ps : List (Nat × Nat)} (h : ps.Pairwise fun p q => ¬ sameCell p q) (f : Framebuffer)
    (c : Bool) {u v : Nat} (miss : ¬ ∃ p ∈ ps, sameCell (u, v) p) : (drawCells f c ps).1.cell u v = f.cell u v := by
  rw [cell_drawCells h, decide_eq_false miss, Bool.xor_false]

/-- The flag of a draw of pairwise different cells: set before, or some drawn cell was on (rules R204, R205). -/
theorem collision_drawCells {ps : List (Nat × Nat)} (h : ps.Pairwise fun p q => ¬ sameCell p q) (f : Framebuffer)
    (c : Bool) : (drawCells f c ps).2 = (c || decide (∃ p ∈ ps, f.cell p.1 p.2 = true)) := by
  induction ps generalizing f c with
  | nil => simp [drawCells]
  | cons p ps ih =>
    obtain ⟨hp, hps⟩ := List.pairwise_cons.1 h
    have hsame : (∃ q ∈ ps, (f.drawPixel p.1 p.2).1.cell q.1 q.2 = true) ↔ ∃ q ∈ ps, f.cell q.1 q.2 = true := by
      refine exists_congr fun q => and_congr_right fun hq => ?_
      have hne : ¬ (q.1 % 64 = p.1 % 64 ∧ q.2 % 32 = p.2 % 32) := fun e => hp q hq ⟨e.1.symm, e.2.symm⟩
      rw [Framebuffer.cell_drawPixel, decide_eq_false hne, Bool.xor_false]
    rw [drawCells, ih hps]
    simp only [hsame]
    simp only [Framebuffer.drawPixel, Bool.not_not, List.mem_cons, exists_eq_or_imp, Bool.decide_or,
      Bool.decide_eq_true, Bool.or_assoc]

theorem collision_drawCells_iff {ps : List (Nat × Nat)} (h : ps.Pairwise fun p q => ¬ sameCell p q) (f : Framebuffer) :
    (drawCells f false ps).2 = true ↔ ∃ p ∈ ps, f.cell p.1 p.2 = true := by
  rw [collision_drawCells h, Bool.false_or, decide_eq_true_iff]

theorem mem_rowColumns {row : Byte} {c : Nat} : c ∈ rowColumns row ↔ c < 8 ∧ row.getLsbD (7 - c) = true := by
  simp [rowColumns]

/-- The cells of a sprite: column offset of a bit of 1, row offset of its byte (rule R203). -/
theorem mem_spriteCells {x y : Nat} {rows : List Byte} {p : Nat × Nat} :
    p ∈ spriteCells x y rows ↔
      ∃ r, ∃ h : r < rows.length, ∃ c < 8, rows[r].getLsbD (7 - c) = true ∧ p = (x + c, y + r) := by
  induction rows generalizing y with
  | nil => simp [spriteCells]
  | cons row rows ih =>
    rw [spriteCells, List.mem_append, ih]
    constructor
    · rintro (hp | ⟨r, h, c, hc, hb, rfl⟩)
      · obtain ⟨c, hc, rfl⟩ := List.mem_map.1 hp
        obtain ⟨hc8, hb⟩ := mem_rowColumns.1 hc
        exact ⟨0, by simp, c, hc8, hb, rfl⟩
      · exact ⟨r + 1, by simpa using h, c, hc, hb, by simp; omega⟩
    · rintro ⟨r, h, c, hc, hb, rfl⟩
      cases r with
      | zero => exact .inl (List.mem_map.2 ⟨c, mem_rowColumns.2 ⟨hc, hb⟩, rfl⟩)
      | succ r => exact .inr ⟨r, by simpa using h, c, hc, hb, by simp; omega⟩

/-- No cell is toggled twice within one draw: at most 15 rows < 32 and 8 columns < 64 (rule R204, corner case (e)). -/
theorem spriteCells_pairwise (x y : Nat) (rows : List Byte) (h : rows.length ≤ 32) :
    (spriteCells x y rows).Pairwise fun p q => ¬ sameCell p q := by
  induction rows generalizing y with
  | nil => simp [spriteCells]
  | cons row rows ih =>
    simp only [List.length_cons] at h
    rw [spriteCells, List.pairwise_append]
    refine ⟨?_, ih (y + 1) (by omega), ?_⟩
    · rw [List.pairwise_map]
      have hlt : (rowColumns row).Pairwise (· < ·) := List.pairwise_lt_range.filter _
      refine hlt.imp_of_mem fun {c d} hc hd hcd e => ?_
      have := (mem_rowColumns.1 hc).1
      have := (mem_rowColumns.1 hd).1
      have := e.1
      omega
    · intro p hp q hq e
      obtain ⟨c, hc, rfl⟩ := List.mem_map.1 hp
      obtain ⟨r, hr, d, hd, hb, rfl⟩ := mem_spriteCells.1 hq
      have := e.2
      simp only at this
      omega

end Sys2Proof.Machine
end

