-- ==== Sys2Proof/Laws/Step.lean ====
section
/-! SUPPORT. What a step can do, once (rules R120, R122): the event, the tick, the instruction; and where a stored
instruction is fetched. -/
namespace Sys2Proof.Machine

theorem step_tick {s : State} (h : s.nextEvent = .tick) : step s = tick s.eventTaken := by simp [step, h, runEvent]

/-- A step with a next state is a tick that executed a decoded instruction and did its timer step, or one of the
host's other events. -/
theorem step_cases {s u : State} (h : step s = .next u) :
    (s.nextEvent = .tick ∧ s.pc.toNat ≤ 4094 ∧ ∃ w i t, fetch s.eventTaken = .ok w ∧ decodeWord w = some i ∧
      exec i s.eventTaken = .next t ∧ u = t.endOfTick) ∨
    (s.nextEvent = .timerTick ∧ s.params.timerPolicy = .decoupled ∧ u = s.eventTaken.timerStep) ∨
    (s.nextEvent = .reset ∧ u = hostReset s.eventTaken) ∨
    (∃ rom, s.nextEvent = .load rom ∧ u = hostLoad rom s.eventTaken) ∨
    (∃ k, s.nextEvent = .press k ∧ u = hostSetKey k true s.eventTaken) ∨
    (∃ k, s.nextEvent = .release k ∧ u = hostSetKey k false s.eventTaken) := by
  unfold step at h
  cases he : s.nextEvent with
  | tick =>
    refine .inl ⟨rfl, ?_⟩
    simp only [he, runEvent] at h
    rcases tick_cases s.eventTaken with ⟨-, e⟩ | ⟨hpc, w, hw, ⟨-, e⟩ | ⟨i, hi, e⟩⟩ <;> rw [e] at h
    · cases h
    · cases h
    · obtain ⟨t, ht, hu⟩ := timersAfter_next h
      exact ⟨hpc, w, i, t, hw, hi, ht, hu⟩
  | timerTick =>
    simp only [he, runEvent, hostTimerTick] at h
    split at h
    · cases h
    · next hp => exact .inr (.inl ⟨rfl, hp, by cases h; rfl⟩)
  | reset => simp only [he, runEvent] at h; cases h; exact .inr (.inr (.inl ⟨rfl, rfl⟩))
  | load rom => simp only [he, runEvent] at h; cases h; exact .inr (.inr (.inr (.inl ⟨rom, rfl, rfl⟩)))
  | press k => simp only [he, runEvent] at h; cases h; exact .inr (.inr (.inr (.inr (.inl ⟨k, rfl, rfl⟩))))
  | release k => simp only [he, runEvent] at h; cases h; exact .inr (.inr (.inr (.inr (.inr ⟨k, rfl, rfl⟩))))

/-- The instruction `withFetchWord` stores is the one the next tick fetches. -/
theorem fetch_withFetchWord (s : State) (w : Word) : fetch (s.withFetchWord 16 w.toNat) = .ok w := by
  have hpc : s.fetchAddress.toNat ≤ 4094 := by
    unfold State.fetchAddress
    split
    · next h => simp only [Config.addrMax] at h; omega
    · decide
  rw [fetch_ok (s := s.withFetchWord 16 w.toNat) hpc]
  have hw : BitVec.ofNat 16 (w.toNat % 2 ^ 16) = w := by
    apply BitVec.eq_of_toNat_eq
    simpa using w.isLt
  have h0 := Memory.read_writeBytes_inside s.mem s.fetchAddress.toNat [highByte w, lowByte w] 0 (by simp)
  have h1 := Memory.read_writeBytes_inside s.mem s.fetchAddress.toNat [highByte w, lowByte w] 1 (by simp)
  simp only [State.byteAt, State.withFetchWord, hw]
  simp only [Nat.add_zero, List.getElem_cons_zero] at h0
  simp only [List.getElem_cons_succ, List.getElem_cons_zero] at h1
  rw [h0, h1, wordOfBytes_highByte_lowByte]

/-- After `withFetchWord` the next event is a tick. -/
theorem nextEvent_withFetchWord (s : State) (nbits w : Nat) : (s.withFetchWord nbits w).nextEvent = .tick := by
  show (s.queueWithTickNext.head?).getD .tick = .tick
  unfold State.queueWithTickNext
  by_cases h : s.nextEvent = .tick
  · rw [if_pos h]; exact h
  · rw [if_neg h]; rfl

end Sys2Proof.Machine
end

