-- ==== Sys2Proof/Tests/Slice0.lean ====
section
/-! SUPPORT. The model's own tests. Expected values are the vectors of spec/95_test_vectors.md (their numbers stand in the
comments); the last part shows, for each statement with hypotheses, a state and operands that meet them. -/
namespace Sys2Proof.Machine.Tests

/-! ### Helpers -/

/-- The state after one step from `s` with `opcode` stored where it is fetched. -/
def after (s : State) (opcode : Nat) : Option State := nextState (step (s.withFetchWord 16 opcode))

/-- The fault of that step. -/
def faultOf (s : State) (opcode : Nat) : Option Fault := reportedFault (step (s.withFetchWord 16 opcode))

def r0 : State := State.reset
def r1 (a : Byte) : State := r0.setReg 1 a
def r12 (a b : Byte) : State := (r1 a).setReg 2 b
def r1F (a f : Byte) : State := (r1 a).setReg 15 f
def atI (s : State) (a : Word) (bytes : List Byte) : State := (s.setMem (s.mem.writeBytes a.toNat bytes)).setI a
def keyDown (s : State) (k : Nat) : State := hostSetKey k true s
def lit (s : State) (x y : Nat) : State := s.setFb (s.fb.setCell x y true)
def withEvent (s : State) (e : HostEvent) : State := { s with hostQueue := [e] }
def decoupled (s : State) : State := { s with params := { s.params with timerPolicy := .decoupled } }
def withPolicy (s : State) (p : KeyRangePolicy) : State := { s with params := { s.params with keyRangePolicy := p } }

/-! ### Well-formedness: the one check, refused and accepted -/

theorem test_wf_refuses_sixteen_rows : (Instr.drw 0 0 16).wellFormed = false := by decide
theorem test_wf_accepts_fifteen_rows : (Instr.drw 15 15 15).wellFormed = true := by decide

/-! ### Decoding: one written-out word for every row (vectors E1 to E36) -/

theorem test_decode_cls : decodeWord 0b0000000011100000 = some .cls := by decide            -- E2
theorem test_decode_ret : decodeWord 0b0000000011101110 = some .ret := by decide            -- E3
theorem test_decode_modesw : decodeWord 0b0000000011111111 = some .modesw := by decide      -- E4
theorem test_decode_jp : decodeWord 0b0001101010111100 = some (.jp 0xABC) := by decide      -- E5
theorem test_decode_call : decodeWord 0b0010111111111111 = some (.call 0xFFF) := by decide  -- E6
theorem test_decode_seImm : decodeWord 0b0011101001111111 = some (.seImm 10 0x7F) := by decide   -- E7
theorem test_decode_sneImm : decodeWord 0b0100000000000001 = some (.sneImm 0 0x01) := by decide  -- E8
theorem test_decode_seReg : decodeWord 0b0101101010110000 = some (.seReg 10 11) := by decide     -- E9
theorem test_decode_ldImm : decodeWord 0b0110111100000000 = some (.ldImm 15 0x00) := by decide   -- E10
theorem test_decode_addImm : decodeWord 0b0111000100100011 = some (.addImm 1 0x23) := by decide  -- E11
theorem test_decode_ldReg : decodeWord 0b1000101010110000 = some (.ldReg 10 11) := by decide     -- E12
theorem test_decode_orReg : decodeWord 0b1000101010110001 = some (.orReg 10 11) := by decide     -- E13
theorem test_decode_andReg : decodeWord 0b1000101010110010 = some (.andReg 10 11) := by decide   -- E14
theorem test_decode_xorReg : decodeWord 0b1000101010110011 = some (.xorReg 10 11) := by decide   -- E15
theorem test_decode_addReg : decodeWord 0b1000101010110100 = some (.addReg 10 11) := by decide   -- E16
theorem test_decode_subReg : decodeWord 0b1000101010110101 = some (.subReg 10 11) := by decide   -- E17
theorem test_decode_shr : decodeWord 0b1000101010110110 = some (.shr 10 11) := by decide         -- E18
theorem test_decode_subn : decodeWord 0b1000101010110111 = some (.subn 10 11) := by decide       -- E19
theorem test_decode_shl : decodeWord 0b1000101010111110 = some (.shl 10 11) := by decide         -- E20
theorem test_decode_sneReg : decodeWord 0b1001101010110000 = some (.sneReg 10 11) := by decide   -- E21
theorem test_decode_ldI : decodeWord 0b1010001011110000 = some (.ldI 0x2F0) := by decide         -- E1
theorem test_decode_jpV0 : decodeWord 0b1011000100100011 = some (.jpV0 0x123) := by decide       -- E22
theorem test_decode_rnd : decodeWord 0b1100010111110000 = some (.rnd 5 0xF0) := by decide        -- E23
theorem test_decode_drw : decodeWord 0b1101000100101111 = some (.drw 1 2 15) := by decide        -- E24
theorem test_decode_skp : decodeWord 0b1110010110011110 = some (.skp 5) := by decide             -- E26
theorem test_decode_sknp : decodeWord 0b1110010110100001 = some (.sknp 5) := by decide           -- E27
theorem test_decode_ldRegDt : decodeWord 0b1111000000000111 = some (.ldRegDt 0) := by decide     -- E28
theorem test_decode_ldRegKey : decodeWord 0b1111111000001010 = some (.ldRegKey 14) := by decide  -- E29
theorem test_decode_ldDtReg : decodeWord 0b1111001100010101 = some (.ldDtReg 3) := by decide     -- E30
theorem test_decode_ldStReg : decodeWord 0b1111010000011000 = some (.ldStReg 4) := by decide     -- E31
theorem test_decode_addI : decodeWord 0b1111010100011110 = some (.addI 5) := by decide           -- E32
theorem test_decode_ldGlyph : decodeWord 0b1111011000101001 = some (.ldGlyph 6) := by decide     -- E33
theorem test_decode_ldBcd : decodeWord 0b1111011100110011 = some (.ldBcd 7) := by decide         -- E34
theorem test_decode_storeRegs : decodeWord 0b1111111101010101 = some (.storeRegs 15) := by decide -- E35
theorem test_decode_loadRegs : decodeWord 0b1111111101100101 = some (.loadRegs 15) := by decide   -- E36

/-- T158 to T180: illegal opcodes of each family that has them. -/
theorem test_decode_illegal :
    [0x0000, 0x00E1, 0x00FE, 0x01E0, 0x0FFF, 0x5121, 0x512F, 0x8128, 0x812D, 0x812F, 0x9121, 0xE19F, 0xE100, 0xF100,
      0xF130, 0xF185, 0xF1FF].map decodeWord = List.replicate 17 none := by decide

/-- Fewer than two bytes give no instruction; bytes after the two are left over. -/
theorem test_decodeBytes :
    decodeBytes [0x12] = .error .truncated ∧ decodeBytes [0xA2, 0xF0, 0x55] = .ok (.ldI 0x2F0, [0x55]) := by decide

theorem test_encode_bytes : encodeBytes (.shl 10 11) = [0x8A, 0xBE] := by decide
theorem test_decodeTableWord : decodeTableWord 16 0xD12F = some (.drw 1 2 15) ∧ decodeTableWord 16 0x5121 = none := by
  decide

/-! ### Control transfer -/

theorem test_ret_T1 : (after { r0 with pc := 0x20E, stack := [0x206] } 0x00EE).map (fun t => (t.pc, t.stack)) =
    some (0x206, []) := by decide
theorem test_ret_T3 : faultOf r0 0x00EE = some .stackUnderflow := by decide
theorem test_jp_T6 : (after r0 0x1301).map (·.pc) = some 0x301 := by decide
theorem test_call_T10 : (after { r0 with pc := 0x204 } 0x220A).map (fun t => (t.pc, t.stack)) =
    some (0x20A, [0x206]) := by decide
theorem test_call_T12 : faultOf { r0 with stack := List.replicate 16 0x202 } 0x2200 = some .stackOverflow := by decide
theorem test_jpV0_T16 : (after (r0.setReg 0 0xFF) 0xBFFF).map (·.pc) = some 0x10FE := by decide
theorem test_jpV0_T17 : (after (r0.setReg 2 0x55) 0xB2F0).map (·.pc) = some 0x2F0 := by decide
/-- T8, T9: the fetch at the top of memory. -/
theorem test_fetch_T8_T9 : reportedFault (step { r0 with pc := 0x0FFF }) = some (.memoryOutOfBounds 0x1000) ∧
    reportedFault (step { r0 with pc := 0x1001 }) = some (.memoryOutOfBounds 0x1001) := by decide

/-! ### Skips -/

theorem test_seImm_T18_T19 : (after { r0 with pc := 0x208 } 0x3100).map (·.pc) = some 0x20C ∧
    (after { r1 1 with pc := 0x208 } 0x3100).map (·.pc) = some 0x20A := by decide
theorem test_sneImm_T21_T22 : (after { r0.setReg 10 6 with pc := 0x300 } 0x4A05).map (·.pc) = some 0x304 ∧
    (after { r0.setReg 10 5 with pc := 0x300 } 0x4A05).map (·.pc) = some 0x302 := by decide
theorem test_seReg_T23_T24 : (after (r12 0x33 0x33) 0x5120).map (·.pc) = some 0x204 ∧
    (after (r12 0x33 0x34) 0x5120).map (·.pc) = some 0x202 := by decide
theorem test_sneReg_T26_T27 : (after (r12 1 2) 0x9120).map (·.pc) = some 0x204 ∧
    (after (r12 1 1) 0x9120).map (·.pc) = some 0x202 := by decide

/-! ### Constants and random -/

theorem test_ldImm_T31 : (after r0 0x6A2F).map (fun t => (t.reg 10, t.pc)) = some (0x2F, 0x202) := by decide
theorem test_addImm_T34_T36 : (after (r0.setReg 3 0xFA) 0x730A).map (fun t => (t.reg 3, t.reg 15)) = some (0x04, 0) ∧
    (after (r0.setReg 15 0xFF) 0x7F01).map (·.reg 15) = some 0 := by decide
theorem test_ldI_T39 : (after { r0 with i := 0x1234 } 0xAFFF).map (·.i) = some 0x0FFF := by decide
theorem test_rnd_T40 : (after { r0 with randQueue := [0xA7, 0x11] } 0xC30F).map (fun t => (t.reg 3, t.randQueue)) =
    some (0x07, [0x11]) := by decide

/-! ### ALU -/

theorem test_ldReg_T44 : (after (r0.setReg 15 1) 0x8AF0).map (fun t => (t.reg 10, t.reg 15)) = some (1, 1) := by decide
theorem test_orReg_T46 : (after ((r12 0x0F 0xF0).setReg 15 1) 0x8121).map (fun t => (t.reg 1, t.reg 15)) =
    some (0xFF, 1) := by decide
theorem test_andReg_T47 : (after ((r12 0x3C 0x0F).setReg 15 1) 0x8122).map (fun t => (t.reg 1, t.reg 15)) =
    some (0x0C, 1) := by decide
theorem test_xorReg_T48 : (after ((r12 0xFF 0x0F).setReg 15 1) 0x8123).map (fun t => (t.reg 1, t.reg 15)) =
    some (0xF0, 1) := by decide
theorem test_addReg_T50_T55 : (after (r12 0xC8 0x64) 0x8124).map (fun t => (t.reg 1, t.reg 15)) = some (0x2C, 1) ∧
    (after (r1F 0x20 0xF0) 0x8F14).map (·.reg 15) = some 0x10 := by decide
theorem test_addReg_T53_T56 : (after (r12 0xF0 0x0F) 0x8124).map (fun t => (t.reg 1, t.reg 15)) = some (0xFF, 0) ∧
    (after (r1F 5 3) 0x81F4).map (fun t => (t.reg 1, t.reg 15)) = some (8, 0) := by decide
theorem test_subReg_T57_T59 : (after (r12 5 10) 0x8125).map (fun t => (t.reg 1, t.reg 15)) = some (0xFB, 0) ∧
    (after (r12 7 7) 0x8125).map (fun t => (t.reg 1, t.reg 15)) = some (0, 1) := by decide
theorem test_subReg_T62 : (after (r1F 3 5) 0x8F15).map (·.reg 15) = some 2 := by decide
theorem test_shr_T63_T67 : (after (r12 5 0xFF) 0x8126).map (fun t => (t.reg 1, t.reg 15)) = some (2, 1) ∧
    (after (r1 0xFF) 0x8106).map (fun t => (t.reg 1, t.reg 15)) = some (0x7F, 1) := by decide
theorem test_shr_T69 : (after (r0.setReg 15 2) 0x8F06).map (·.reg 15) = some 1 := by decide
theorem test_subn_T70_T71 : (after (r12 5 10) 0x8127).map (fun t => (t.reg 1, t.reg 15)) = some (5, 1) ∧
    (after (r12 10 5) 0x8127).map (fun t => (t.reg 1, t.reg 15)) = some (0xFB, 0) := by decide
theorem test_subn_T73 : (after (r1F 4 1) 0x8F17).map (·.reg 15) = some 3 := by decide
theorem test_shl_T74_T75 : (after (r12 0x81 0xFF) 0x812E).map (fun t => (t.reg 1, t.reg 15)) = some (2, 1) ∧
    (after (r1 0x7F) 0x810E).map (fun t => (t.reg 1, t.reg 15)) = some (0xFE, 0) := by decide
theorem test_shl_T77 : (after (r0.setReg 15 0x81) 0x8F0E).map (·.reg 15) = some 2 := by decide

/-! ### Framebuffer -/

theorem test_cls_T78 : (after ((lit (lit r0 0 0) 63 31).setReg 15 7) 0x00E0).map
    (fun t => (t.pixel 0 0, t.pixel 63 31, t.reg 15)) = some (false, false, 7) := by decide
theorem test_drw_T80_T84 : (after (atI (r12 0x3F 0x1F) 0x300 [0xC0]) 0xD121).map
      (fun t => (t.pixel 63 31, t.pixel 0 31, t.pixel 1 31, t.reg 15)) = some (true, true, false, 0) ∧
    (after (atI (r12 0xFF 0xFF) 0x300 [0xFF]) 0xD121).map
      (fun t => (t.pixel 63 31, t.pixel 6 31, t.pixel 7 31, t.pixel 62 31)) = some (true, true, false, false) := by decide
theorem test_drw_T85_T89 : (after (lit (atI (r12 4 4) 0x300 [0xF0]) 4 4) 0xD121).map
      (fun t => (t.pixel 4 4, t.pixel 5 4, t.pixel 7 4, t.reg 15)) = some (false, true, true, 1) ∧
    faultOf { r0 with i := 0xFFF } 0xD122 = some (.memoryOutOfBounds 0x1000) := by decide

/-! ### Keypad -/

theorem test_skp_T94_T95 : (after (keyDown { r0.setReg 5 10 with pc := 0x210 } 10) 0xE59E).map (·.pc) = some 0x214 ∧
    (after { r0.setReg 5 10 with pc := 0x210 } 0xE59E).map (·.pc) = some 0x212 := by decide
theorem test_skp_T102 : faultOf (keyDown (r0.setReg 0 0x1A) 10) 0xE09E = some (.keyIndexOutOfRange 26) := by decide
theorem test_sknp_T97_T98 : (after { r0.setReg 5 10 with pc := 0x210 } 0xE5A1).map (·.pc) = some 0x214 ∧
    (after (keyDown { r0.setReg 5 10 with pc := 0x210 } 10) 0xE5A1).map (·.pc) = some 0x212 := by decide
theorem test_ldRegKey_T105 : (after (keyDown (keyDown { r0 with pc := 0x220 } 12) 7) 0xF30A).map
    (fun t => (t.reg 3, t.pc)) = some (7, 0x222) := by decide
theorem test_ldRegKey_T108 : (after { r0.setReg 3 0x77 with pc := 0x220, dt := 5, st := 1 } 0xF30A).map
    (fun t => (t.reg 3, t.pc, t.dt, t.st)) = some (0x77, 0x220, 4, 0) := by decide

/-! ### Timers -/

theorem test_ldRegDt_T110 : (after { r0 with dt := 0x2A } 0xF207).map (fun t => (t.reg 2, t.dt)) = some (0x2A, 0x29) := by
  decide
theorem test_ldDtReg_T114_T115 : (after (r0.setReg 2 3) 0xF215).map (·.dt) = some 2 ∧
    (after (decoupled (r0.setReg 2 3)) 0xF215).map (·.dt) = some 3 := by decide
theorem test_ldStReg_T119 : (after (r0.setReg 2 0x10) 0xF218).map (fun t => (t.st, t.dt)) = some (0x0F, 0) := by decide
/-- L9: the timers stop at 0. -/
theorem test_timerTick_L9 : (nextState (step (withEvent (decoupled { r0 with dt := 2 }) .timerTick))).map
    (fun t => (t.dt, t.st)) = some (1, 0) := by decide

/-! ### Index and memory -/

theorem test_addI_T125_T128 : (after { r1 1 with i := 0xFFF } 0xF11E).map (fun t => (t.i, t.reg 15)) = some (0x1000, 1) ∧
    (after { r1 1 with i := 0xFFFF } 0xF11E).map (fun t => (t.i, t.reg 15)) = some (0, 0) := by decide
theorem test_addI_T130 : (after { r0.setReg 15 3 with i := 0xFFE } 0xFF1E).map (fun t => (t.i, t.reg 15)) =
    some (0x1001, 1) := by decide
theorem test_ldGlyph_T131_T135 : (after (r1 10) 0xF129).map (·.i) = some 0x32 ∧
    (after (r1 0xFF) 0xF129).map (·.i) = some 0x4FB := by decide
theorem test_ldBcd_T136 : (after { r1 0xFE with i := 0x300 } 0xF133).map
    (fun t => (t.byteAt 0x300, t.byteAt 0x301, t.byteAt 0x302, t.i)) = some (2, 5, 4, 0x300) := by decide
theorem test_ldBcd_T142_T143 : faultOf { r1 0x7B with i := 0xFFE } 0xF133 = some (.memoryOutOfBounds 0x1000) ∧
    faultOf { r1 0x7B with i := 0x2000 } 0xF133 = some (.memoryOutOfBounds 0x2000) := by decide
theorem test_storeRegs_T145 : (after { (r1 0x0A).setReg 0 0x12 with i := 0x208 } 0xF155).map
    (fun t => (t.byteAt 0x208, t.byteAt 0x209, t.byteAt 0x20A, t.i)) = some (0x12, 0x0A, 0, 0x20A) := by decide
theorem test_storeRegs_T149 : faultOf { r0 with i := 0xFFD } 0xF355 = some (.memoryOutOfBounds 0x1000) := by decide
theorem test_loadRegs_T151 : (after (atI (r0.setReg 3 0x66) 0x300 [2, 5, 4, 9]) 0xF265).map
    (fun t => (t.reg 0, t.reg 1, t.reg 2, t.reg 3, t.i)) = some (2, 5, 4, 0x66, 0x303) := by decide
theorem test_loadRegs_T152_T154 : (after r0 0xF065).map (fun t => (t.reg 0, t.i)) = some (0xF0, 1) ∧
    faultOf { r0 with i := 0xFFF } 0xF165 = some (.memoryOutOfBounds 0x1000) := by decide

/-! ### Mode switch, illegal opcodes, host events -/

theorem test_modesw_T157 : (after { r0 with dt := 3 } 0x00FF).map (fun t => (t.pc, t.dt)) = some (0x202, 2) := by decide
theorem test_illegal_T181 : faultOf { r0 with pc := 0x3A2 } 0x8128 = some (.unrecognizedInstruction 0x8128 0x3A2) := by
  decide
theorem test_load_L2 : (nextState (step (withEvent r0 (.load [0x12, 0x00])))).map
    (fun t => (t.byteAt 0x200, t.byteAt 0x201, t.pc, t.hostQueue)) = some (0x12, 0, 0x200, []) := by decide
theorem test_reset_L4 : (nextState (step (withEvent (keyDown (atI { r0 with pc := 0x240 } 0 [1]) 3) .reset))).map
    (fun t => (t.byteAt 0, t.i, t.pc, t.keys[3])) = some (0xF0, 0, 0x200, true) := by decide
/-- `withFetchWord` from a PC no fetch completes at stores the opcode at 0x200, and puts a tick next. -/
theorem test_withFetchWord : (after (withEvent { r0 with pc := 0x1001 } .reset) 0x1ABC).map (fun t => (t.pc, t.hostQueue)) =
    some (0xABC, [.reset]) := by decide
/-- Writing what an unlisted address reads as removes the entry. -/
theorem test_memory_canonical : (State.reset.mem.write 0x300 7).write 0x300 0 = [] ∧
    (State.reset.mem.write 0 1).write 0 0xF0 = [] ∧ (State.reset.mem.write 2 2).write 1 1 = [(1, 1), (2, 2)] := by decide

/-! ### Witnesses: the hypotheses of each statement, met together -/

theorem witness_EncodeThenDecodeGivesTheInstruction : (Instr.shr 15 15).wellFormed = true ∧
    (Instr.drw 15 15 15).wellFormed = true := by decide

theorem witness_DecodeThenEncodeGivesTheOpcode : decodeWord 0xDFFF = some (.drw 15 15 15) := by decide

/-- The highest PC a fetch completes at, on memory that lists nothing. -/
def topPc : State := { r0 with pc := 4094 }

theorem witness_DecodeSelectsTheRowOfTheOpcodeMap :
    (⟨"9XY0", 0xF00F, 0x9000⟩ ∈ opcodeRows ∧ (OpcodeRow.mk "9XY0" 0xF00F 0x9000).selects 0x9FF0 = true) ∧
    (topPc.nextEvent = .tick ∧ topPc.pc.toNat ≤ 4094 ∧
      (0x0000 : Word) = wordOfBytes (topPc.byteAt topPc.pc.toNat) (topPc.byteAt (topPc.pc.toNat + 1)) ∧
      ∀ r ∈ opcodeRows, r.selects 0x0000 = false) := by decide

/-- FX15 at the highest PC, both timers running. -/
def timerAtTop : State := ({ topPc with dt := 1, st := 0 } : State).withFetchWord 16 0xF115

theorem witness_StepRunsTheDecodedInstruction :
    (timerAtTop.nextEvent = .tick ∧ timerAtTop.pc.toNat ≤ 4094 ∧
      decodeWord (wordOfBytes (timerAtTop.byteAt timerAtTop.pc.toNat) (timerAtTop.byteAt (timerAtTop.pc.toNat + 1))) =
        some (.ldDtReg 1) ∧
      (∃ t, exec (.ldDtReg 1) timerAtTop.eventTaken = .next t) ∧ timerAtTop.params.timerPolicy = .perTick ∧
      (decoupled timerAtTop).params.timerPolicy = .decoupled) ∧
    (exec .ret r0.eventTaken = .fault .stackUnderflow ∧ decodeWord (wordOfBytes 0x00 0xEE) = some .ret) :=
  ⟨⟨by decide, by decide, by decide, ⟨_, rfl⟩, rfl, rfl⟩, by rfl, by decide⟩

theorem witness_FetchReadsTwoBytesOrFaults : topPc.pc.toNat ≤ 4094 ∧
    (({ r0 with pc := 4096 } : State).nextEvent = .tick ∧ 4095 < ({ r0 with pc := 4096 } : State).pc.toNat) ∧
    (({ r0 with pc := 4095 } : State).nextEvent = .tick ∧ ({ r0 with pc := 4095 } : State).pc.toNat = 4095) := by decide

theorem witness_IllegalOpcodeReportsOpcodeAndPc : topPc.nextEvent = .tick ∧ topPc.pc.toNat ≤ 4094 ∧
    decodeWord (wordOfBytes (topPc.byteAt topPc.pc.toNat) (topPc.byteAt (topPc.pc.toNat + 1))) = none := by decide

theorem witness_TimersCountDownOncePerOkTick : timerAtTop.nextEvent = .tick ∧ timerAtTop.pc.toNat ≤ 4094 ∧
    decodeWord (wordOfBytes (timerAtTop.byteAt timerAtTop.pc.toNat) (timerAtTop.byteAt (timerAtTop.pc.toNat + 1))) =
      some (.ldDtReg 1) ∧
    (∃ t, step timerAtTop = .next t) ∧ timerAtTop.params.timerPolicy = .perTick ∧
    (∃ t, step (decoupled timerAtTop) = .next t) ∧ (decoupled timerAtTop).params.timerPolicy = .decoupled :=
  ⟨by decide, by decide, by decide, ⟨_, rfl⟩, rfl, ⟨_, rfl⟩, rfl⟩

theorem witness_TimerTickStepsOnlyTheTimers :
    ((withEvent (decoupled r0) .timerTick).nextEvent = .timerTick ∧
      (withEvent (decoupled r0) .timerTick).params.timerPolicy = .decoupled) ∧
    ((withEvent r0 .timerTick).nextEvent = .timerTick ∧ (withEvent r0 .timerTick).params.timerPolicy = .perTick) := by
  decide

theorem witness_HostResetReinstallsTheResetValues : (withEvent topPc .reset).nextEvent = .reset := by decide

theorem witness_LoadCopiesTheRomAfterAReset : (withEvent topPc (.load (List.replicate 3584 1))).nextEvent =
    .load (List.replicate 3584 1) ∧ (List.replicate 3584 (1 : Byte)).length ≤ 3584 :=
  ⟨rfl, by rw [List.length_replicate]⟩

theorem witness_LoadLongerThanMemoryDoesNothing : (withEvent topPc (.load (List.replicate 3585 1))).nextEvent =
    .load (List.replicate 3585 1) ∧ 3584 < (List.replicate 3585 (1 : Byte)).length :=
  ⟨rfl, by rw [List.length_replicate]; decide⟩

theorem witness_HostDrivesOneKeyLine : (withEvent r0 (.press 15)).nextEvent = .press 15 ∧
    (withEvent r0 (.release 16)).nextEvent = .release 16 := by decide

theorem witness_HostReadsTheGridRowMajor : 63 < 64 ∧ 31 < 32 ∧ (lit r0 63 31).hostView.cells[2047]? = some true ∧
    (lit r0 0 1).hostView.cells[64]? = some true :=
  ⟨by decide, by decide, by simp [State.hostView, State.cellGrid]; decide, by simp [State.hostView, State.cellGrid]; decide⟩

theorem witness_ResetStateHoldsTheResetValues : 4095 < 4096 ∧ r0.byteAt 0x4F = 0x80 ∧ r0.byteAt 0x50 = 0 ∧
    r0.byteAt 4095 = 0 := by decide

/-- 00FF at the highest PC. -/
def modeAtTop : State := topPc.withFetchWord 16 0x00FF

theorem witness_ModeSwitchOnlyAdvancesPc : modeAtTop.nextEvent = .tick ∧ modeAtTop.pc.toNat ≤ 4094 ∧
    modeAtTop.byteAt modeAtTop.pc.toNat = 0x00 ∧ modeAtTop.byteAt (modeAtTop.pc.toNat + 1) = 0xFF ∧
    modeAtTop.params.timerPolicy = .perTick := by decide

def nearlyFull : State := { r0 with stack := List.replicate 15 0x202 }
def full : State := { r0 with stack := List.replicate 16 0x202 }

theorem witness_CallPushesTheReturnAddress : nearlyFull.sp ≠ nearlyFull.params.stackDepth ∧
    full.sp = full.params.stackDepth := by decide

theorem witness_ReturnPopsTheNewestAddress : ({ r0 with stack := [0x206, 0x0000] } : State).stack = [0x206] ++ [0x0000] ∧
    r0.sp = 0 := by decide

theorem witness_CallThenReturnRestoresPcAndStack : ∃ t u : State, exec (.call 0xFFF) nearlyFull = .next t ∧ u.stack = t.stack ∧
    u.pc = 0xFFF :=
  ⟨_, _, rfl, rfl, rfl⟩

theorem witness_RandomIsTheInputByteMasked : ({ r0 with randQueue := [0xA7] } : State).randQueue = 0xA7 :: [] ∧
    r0.randQueue = [] := by decide

theorem witness_AddAndSubtractWriteResultAndFlag : 255 = ((r12 255 1).reg 1).toNat ∧ 1 = ((r12 255 1).reg 2).toNat := by
  decide

theorem witness_ShiftsWriteResultAndDroppedBit : 0x81 = ((r1 0x81).reg 1).toNat := by decide

/-- A sprite byte at the top of memory, over a lit cell. -/
def topSprite : State := lit (atI (r12 4 4) 4095 [0x80]) 4 4

theorem witness_DrawTogglesTheSpriteCells :
    (0 < 16 ∧ (0 = 0 ∨ ({ r0 with i := 0xFFFF } : State).base + 0 - 1 ≤ 4095)) ∧
    (15 < 16 ∧ (15 = 0 ∨ ({ r0 with i := 4081 } : State).base + 15 - 1 ≤ 4095)) ∧
    (topSprite.base + 1 - 1 ≤ 4095 ∧ topSprite.pixel 4 4 = true ∧ SpriteHits topSprite 1 2 1 4 4) :=
  ⟨by decide, by decide, by decide, by decide, 0, by decide, 0, by decide, by decide, by decide, by decide⟩

theorem witness_DrawFaultsOnARowAboveMemory : (1 ≤ 1 ∧ 4095 < ({ r0 with i := 4096 } : State).base + 1 - 1) ∧
    (1 ≤ 2 ∧ 4095 < ({ r0 with i := 4095 } : State).base + 2 - 1) := by decide

theorem witness_DrawingTwiceRestoresTheScreen : ∃ t u : State, exec (.drw 1 2 1) topSprite = .next t ∧ u.fb = t.fb ∧
    u.i = topSprite.i ∧ (∀ a, u.byteAt a = topSprite.byteAt a) ∧ u.reg 1 = topSprite.reg 1 ∧ u.reg 2 = topSprite.reg 2 :=
  ⟨_, _, rfl, rfl, rfl, fun _ => rfl, rfl, rfl⟩

theorem witness_SkipsOnKeysReadTheNamedLine : ((r1 15).reg 1).toNat = (15 : Fin 16).val ∧
    (15 < ((r1 16).reg 1).toNat ∧ (r1 16).params.keyRangePolicy = .fault) := by decide

theorem witness_OtherKeyRangePoliciesReadALine : (15 < ((withPolicy (r1 16) .mask).reg 1).toNat ∧
      (withPolicy (r1 16) .mask).params.keyRangePolicy = .mask ∧
      ((0 : Fin 16).val = ((withPolicy (r1 16) .mask).reg 1).toNat % 16 ∧
        false = (withPolicy (r1 16) .mask).keys[(0 : Fin 16).val])) ∧
    (15 < ((withPolicy (r1 255) .notPressed).reg 1).toNat ∧
      (withPolicy (r1 255) .notPressed).params.keyRangePolicy = .notPressed) := by decide

theorem witness_KeyWaitRefetchesOrCapturesAKey : (∀ k : Fin 16, r0.keys[k.val] = false) ∧
    (keyDown r0 15).keys[(15 : Fin 16).val] = true ∧ (keyDown r0 15).params.keySelect = .lowest := by decide

theorem witness_StoreDecimalWritesThreeDigits : ({ r0 with i := 4093 } : State).base + 2 ≤ 4095 ∧
    4095 < ({ r0 with i := 4094 } : State).base + 2 ∧ 4095 < ({ r0 with i := 4096 } : State).base + 2 := by decide

theorem witness_StoreRegistersWritesAndAdvancesI : ({ r0 with i := 4080 } : State).base + (15 : Reg).val ≤ 4095 ∧
    4095 < ({ r0 with i := 4081 } : State).base + (15 : Reg).val ∧
    4095 < ({ r0 with i := 4096 } : State).base + (0 : Reg).val := by decide

theorem witness_LoadRegistersReadsAndAdvancesI : ({ r0 with i := 4095 } : State).base + (0 : Reg).val ≤ 4095 ∧
    4095 < ({ r0 with i := 4095 } : State).base + (1 : Reg).val ∧
    4095 < ({ r0 with i := 0xFFFF } : State).base + (15 : Reg).val := by decide

/-- V0 and V1 hold an opcode, I points at an odd address. -/
def opcodeInRegs : State := { (r1 0x33).setReg 0 0x62 with i := 0x301 }

theorem witness_StoreThenLoadRestoresTheRegisters : ∃ t u : State, exec (.storeRegs 1) opcodeInRegs = .next t ∧
    (∀ a, u.byteAt a = t.byteAt a) ∧ u.i = opcodeInRegs.i ∧ u.reg 0 = 0 :=
  ⟨_, { r0 with mem := opcodeInRegs.mem.writeBytes 0x301 [0x62, 0x33], i := 0x301 }, rfl, fun _ => rfl, rfl, rfl⟩

theorem witness_StoredOpcodeIsTheNextFetch : ∃ t u : State, (1 : Reg) ≤ 1 ∧ exec (.storeRegs 1) opcodeInRegs = .next t ∧
    (∀ a, u.byteAt a = t.byteAt a) ∧ u.pc = opcodeInRegs.i :=
  ⟨_, { r0 with mem := opcodeInRegs.mem.writeBytes 0x301 [0x62, 0x33], pc := 0x301 }, by decide, rfl, fun _ => rfl, rfl⟩

theorem witness_EveryStepKeepsTheInvariant : (r0.withFetchWord 16 0x2FFF).Inv ∧
    ∃ t, step (r0.withFetchWord 16 0x2FFF) = .next t ∧ t.stack = [0x202] :=
  ⟨⟨by decide, by decide, fun _ h => absurd h List.not_mem_nil, by decide⟩, _, rfl, rfl⟩

theorem witness_ExecuteFaultsAreTheOnesListed : (Instr.drw 0 0 15).wellFormed = true ∧
    r0.params.keyRangePolicy = .fault ∧ executeFault r0 (.drw 0 0 15) = none ∧
    executeFault { r0 with i := 4082 } (.drw 0 0 15) = some (.memoryOutOfBounds 4096) := by decide

theorem witness_NoInstructionIsRefused : step (withEvent r0 .timerTick) = .refused .timerTickUnderPerTick := by rfl

theorem witness_FaultsDependOnTheStateAlone : (r0.withFetchWord 16 0x00EE).nextEvent = .tick ∧
    step (r0.withFetchWord 16 0x00EE) = .fault .stackUnderflow := ⟨by decide, by rfl⟩

theorem witness_OnlyStoresChangeMemory : (∃ t, exec (.ldBcd 1) { r0 with i := 4093 } = .next t) ∧
    (∃ t, exec (.storeRegs 15) { r0 with i := 4080 } = .next t) ∧ ∃ t, exec (.loadRegs 15) { r0 with i := 4080 } = .next t :=
  ⟨⟨_, rfl⟩, ⟨_, rfl⟩, ⟨_, rfl⟩⟩

theorem witness_OnlyClearAndDrawChangeTheScreen : ∃ t, exec (.storeRegs 1) (lit r0 3 3) = .next t ∧
    Instr.storeRegs 1 ≠ .cls ∧ ∀ x y n, Instr.storeRegs 1 ≠ .drw x y n :=
  ⟨_, rfl, by decide, fun _ _ _ => nofun⟩

theorem witness_OnlyCallAndReturnChangeTheStack : ∃ t, exec (.jp 0x300) full = .next t ∧ Instr.jp 0x300 ≠ .ret ∧
    ∀ nnn, Instr.jp 0x300 ≠ .call nnn :=
  ⟨_, rfl, by decide, fun _ => nofun⟩

theorem witness_RegistersChangeOnlyAsTabled : (∃ t, exec (.loadRegs 1) r0 = .next t) ∧
    writesReg (.loadRegs 1) 2 = false ∧ writesFlag (.loadRegs 1) = false ∧
    writesReg (.addI 3) 3 = false ∧ writesFlag (.addI 3) = true ∧ (3 : Reg) ≠ regVF :=
  ⟨⟨_, rfl⟩, by decide, by decide, by decide, by decide, by decide⟩

theorem witness_PcAdvancesByTwoUnlessRedirected : (∃ t, exec (.addI 1) topPc = .next t) ∧
    redirects (.addI 1) = false := ⟨⟨_, rfl⟩, by decide⟩

theorem witness_KeysAreReadByKeyInstructionsOnly : (∃ t, exec (.jp 0x300) r0 = .next t) ∧
    (exec .ret r0 = .fault .stackUnderflow) ∧ (∀ x, Instr.jp 0x300 ≠ .skp x) ∧ (∀ x, Instr.jp 0x300 ≠ .sknp x) ∧
    (∀ x, Instr.jp 0x300 ≠ .ldRegKey x) ∧ (∀ x, Instr.ret ≠ .skp x) ∧ (∀ x, Instr.ret ≠ .sknp x) ∧
    ∀ x, Instr.ret ≠ .ldRegKey x :=
  ⟨⟨_, rfl⟩, by rfl, fun _ => nofun, fun _ => nofun, fun _ => nofun, fun _ => nofun, fun _ => nofun, fun _ => nofun⟩

theorem witness_RandomByteIsReadByRndOnly : (∃ t, exec (.skp 1) r0 = .next t) ∧ (∀ x nn, Instr.skp 1 ≠ .rnd x nn) ∧
    exec .ret r0 = .fault .stackUnderflow ∧ ∀ x nn, Instr.ret ≠ .rnd x nn :=
  ⟨⟨_, rfl⟩, fun _ _ => nofun, by rfl, fun _ _ => nofun⟩

theorem witness_ParametersNeverChange : ∃ t, step (withEvent (decoupled r0) (.load [0x12, 0x00])) = .next t ∧
    t.params.timerPolicy = .decoupled := ⟨_, rfl, rfl⟩

end Sys2Proof.Machine.Tests
end

section
/-! PROOFS of the family 00_scope: what an instruction can answer at all, said once for every instruction and shared
operation (O50, O59), and the key line the two other range policies read (O37). -/
namespace Sys2Proof.Machine

/-! ### What a result answers -/

/-- The result is no refusal, and a next state it answers meets `P`. -/
def Answers (P : State → Prop) : Result → Prop
  | .next t => P t
  | .fault _ => True
  | .refused _ => False

theorem answers_next {P : State → Prop} {t : State} (h : P t) : Answers P (.next t) := h

theorem answers_fault {P : State → Prop} (f : Fault) : Answers P (.fault f) := trivial

theorem Answers.of_next {P : State → Prop} {r : Result} {t : State} (h : Answers P r) (hr : r = .next t) : P t := by
  subst hr; exact h

theorem Answers.ne_refused {P : State → Prop} {r : Result} (h : Answers P r) (q : Refusal) : r ≠ .refused q := by
  rintro rfl; exact h

theorem checkAccess_answers {P : State → Prop} {base k : Nat} {body : Result}
    (h : k = 0 ∨ base + k ≤ 4096 → Answers P body) : Answers P (checkAccess base k body) := by
  rcases checkAccess_cases base k body with ⟨hr, e⟩ | ⟨-, e⟩ <;> rw [e]
  · exact h hr
  · exact answers_fault _

theorem push_answers {P : State → Prop} {s : State} {a : Word} {body : State → Result}
    (h : s.sp ≠ s.params.stackDepth → Answers P (body (s.setStack (s.stack ++ [a])))) : Answers P (push s a body) := by
  by_cases hfull : s.sp = s.params.stackDepth
  · rw [push_full hfull]; exact answers_fault _
  · rw [push_ok hfull]; exact h hfull

theorem pop_answers {P : State → Prop} {s : State} {body : Word → State → Result}
    (h : ∀ l a, s.stack = l ++ [a] → Answers P (body a (s.setStack l))) : Answers P (pop s body) := by
  rcases pop_cases s body with ⟨-, e⟩ | ⟨l, a, hl, e⟩ <;> rw [e]
  · exact answers_fault _
  · exact h l a hl

/-! ### Reading a key line (rules R222, R223, R225) -/

theorem withKeyLine_some {s : State} {k : Byte} {down : Bool} (h : s.keyLine k = some down) (body : Bool → Result) :
    withKeyLine s k body = body down := by simp [withKeyLine, h]

theorem withKeyLine_none {s : State} {k : Byte} (h : s.keyLine k = none) (body : Bool → Result) :
    withKeyLine s k body = .fault (.keyIndexOutOfRange k) := by simp [withKeyLine, h, raise]

theorem withKeyLine_answers {P : State → Prop} {s : State} {k : Byte} {body : Bool → Result}
    (h : ∀ down, s.keyLine k = some down → Answers P (body down)) : Answers P (withKeyLine s k body) := by
  cases hk : s.keyLine k with
  | none => rw [withKeyLine_none hk]; exact answers_fault _
  | some down => rw [withKeyLine_some hk]; exact h down hk

theorem State.keyLine_mask {s : State} {k : Byte} (h : 15 < k.toNat) (hp : s.params.keyRangePolicy = .mask) :
    s.keyLine k = some (s.keys[k.toNat % 16]'(Nat.mod_lt _ (by decide))) := by
  simp [State.keyLine, hp, show ¬ k.toNat < 16 by omega]

theorem State.keyLine_notPressed {s : State} {k : Byte} (h : 15 < k.toNat)
    (hp : s.params.keyRangePolicy = .notPressed) : s.keyLine k = some false := by
  simp [State.keyLine, hp, show ¬ k.toNat < 16 by omega]

/-! ### No instruction is refused or changes a parameter -/

/-- Every instruction completes with the parameters it found, or faults. -/
theorem exec_answers_sameParams (i : Instr) (s : State) : Answers (·.params = s.params) (exec i s) := by
  cases i with
  | ret => simp only [exec, execRet]; exact pop_answers fun _ _ _ => answers_next rfl
  | call nnn => simp only [exec, execCall]; exact push_answers fun _ => answers_next rfl
  | drw x y n => exact checkAccess_answers fun _ => answers_next rfl
  | ldBcd x => exact checkAccess_answers fun _ => answers_next rfl
  | storeRegs x => exact checkAccess_answers fun _ => answers_next rfl
  | loadRegs x => exact checkAccess_answers fun _ => answers_next rfl
  | skp x => exact withKeyLine_answers fun down _ => answers_next (State.skipIf_params s down)
  | sknp x => exact withKeyLine_answers fun down _ => answers_next (State.skipIf_params s !down)
  | ldRegKey x =>
    simp only [exec, execLdRegKey]
    cases s.selectedKey with
    | none => exact answers_next rfl
    | some k => exact answers_next rfl
  | rnd x nn => exact answers_next (State.afterDraw_params s)
  | seImm | sneImm | seReg | sneReg => exact answers_next (State.skipIf_params s _)
  | _ => exact answers_next rfl

theorem tick_ne_refused (s : State) (q : Refusal) : tick s ≠ .refused q := by
  rcases tick_cases s with ⟨-, e⟩ | ⟨-, w, -, ⟨-, e⟩ | ⟨i, -, e⟩⟩ <;> rw [e]
  · nofun
  · nofun
  · rw [Ne, timersAfter_refused]
    exact (exec_answers_sameParams i s).ne_refused q

theorem hostTimerTick_refused {s : State} {q : Refusal} (h : hostTimerTick s = .refused q) :
    s.params.timerPolicy = .perTick ∧ q = .timerTickUnderPerTick := by
  unfold hostTimerTick at h
  split at h
  next hp => cases h; exact ⟨hp, rfl⟩
  next => cases h

theorem step_refused {s : State} {q : Refusal} (h : step s = .refused q) :
    s.nextEvent = .timerTick ∧ s.params.timerPolicy = .perTick ∧ q = .timerTickUnderPerTick := by
  unfold step at h
  cases he : s.nextEvent with
  | tick => rw [he] at h; exact absurd h (tick_ne_refused _ q)
  | timerTick => rw [he] at h; exact ⟨rfl, hostTimerTick_refused (s := s.eventTaken) h⟩
  | reset | load | press | release => rw [he] at h; cases h

@[simp] theorem hostReset_params (s : State) : (hostReset s).params = s.params := rfl

@[simp] theorem hostSetKey_params (k : Nat) (down : Bool) (s : State) : (hostSetKey k down s).params = s.params := rfl

@[simp] theorem hostLoad_params (rom : List Byte) (s : State) : (hostLoad rom s).params = s.params := by
  unfold hostLoad; split <;> rfl

/-- Settles O50: `exec_answers_sameParams` leaves no instruction a refusal, `step_refused` finds the one event. -/
theorem noInstructionIsRefused : Obligations.NoInstructionIsRefused :=
  ⟨fun i s q => (exec_answers_sameParams i s).ne_refused q, fun _ _ => step_refused⟩

/-- Settles O59, event by event: a tick keeps the parameters because its instruction and the timer step do, every
other event by its own definition. -/
theorem parametersNeverChange : Obligations.ParametersNeverChange := by
  intro s u h
  rcases step_cases h with ⟨-, -, w, i, t, -, -, hexec, rfl⟩ | ⟨-, -, rfl⟩ | ⟨-, rfl⟩ | ⟨rom, -, rfl⟩ | ⟨k, -, rfl⟩ |
    ⟨k, -, rfl⟩
  case inl =>
    calc t.endOfTick.params = t.params := t.endOfTick_params
      _ = s.eventTaken.params := (exec_answers_sameParams i _).of_next hexec
  all_goals simp

/-! ### Skips -/

theorem State.skipIf_onlyPcChanges (s : State) (taken : Bool) : OnlyPcChanges s (s.skipIf taken) := by
  constructor <;> simp

/-- EX9E and EXA1 on a key number whose line can be read, in range or under a policy that gives one. -/
theorem exec_keySkips_of_keyLine {s : State} {x : Reg} {down : Bool} (h : s.keyLine (s.reg x) = some down) :
    (∃ t, exec (.skp x) s = .next t ∧ t.pc = (if down then s.pc + 4 else s.pc + 2) ∧ OnlyPcChanges s t) ∧
    (∃ t, exec (.sknp x) s = .next t ∧ t.pc = (if down then s.pc + 2 else s.pc + 4) ∧ OnlyPcChanges s t) := by
  constructor
  · exact ⟨s.skipIf down, withKeyLine_some h _, s.skipIf_pc down, s.skipIf_onlyPcChanges down⟩
  · refine ⟨s.skipIf !down, withKeyLine_some h _, ?_, s.skipIf_onlyPcChanges !down⟩
    cases down <;> rfl

/-- Settles O37: each of the two policies gives the line `down`, and a line that is given is what the skips go by. -/
theorem otherKeyRangePoliciesReadALine : Obligations.OtherKeyRangePoliciesReadALine := by
  rintro x s down habove (⟨hp, k, hk, rfl⟩ | ⟨hp, rfl⟩) <;> apply exec_keySkips_of_keyLine
  · simp only [State.keyLine_mask habove hp, hk]
  · exact State.keyLine_notPressed habove hp

end Sys2Proof.Machine
end

section
/-! PROOFS of the family 10_state: the invariant (O47, O48), what an instruction may change and what it leaves
(O52 to O56), the timers of a tick (O9), and statements about single instructions and the host (O10, O11, O16, O20,
O21, O29). -/
namespace Sys2Proof.Machine

/-! ### Instructions whose effect goes through a shared operation -/

@[simp] theorem State.setStack_sp (s : State) (l : List Word) : (s.setStack l).sp = l.length := rfl

theorem exec_ret (s : State) : exec .ret s = pop s fun a t => .next (t.setPc a) := rfl

theorem exec_call (nnn : BitVec 12) (s : State) :
    exec (.call nnn) s = push s (s.pc + 2) fun t => .next (t.setPc (addressOf nnn)) := rfl

/-- FX0A waits with nothing changed or captures a key (rules R224, R226). -/
theorem exec_ldRegKey_answers {P : State → Prop} {s : State} {x : Reg} (hwait : s.selectedKey = none → P s)
    (hcapture : ∀ k, s.selectedKey = some k → P (s.setReg x (BitVec.ofNat 8 k.val)).advance) :
    Answers P (exec (.ldRegKey x) s) := by
  simp only [exec, execLdRegKey]
  cases hk : s.selectedKey with
  | none => exact answers_next (hwait hk)
  | some k => exact answers_next (hcapture k hk)

/-! ### What keeps the invariant (rule R38) -/

namespace State.Inv

variable {s t : State}

/-- The invariant speaks of memory, stack, parameters and PC only. -/
theorem of_eq (h : s.Inv) (hmem : t.mem = s.mem) (hstack : t.stack = s.stack) (hparams : t.params = s.params)
    (hpc : t.pc = s.pc) : t.Inv where
  memWf := hmem ▸ h.memWf
  stackBound := by rw [State.sp, hstack, hparams]; exact h.stackBound
  stackEntries := hstack ▸ h.stackEntries
  pcBound := hpc ▸ h.pcBound

theorem setPc (h : s.Inv) {w : Word} (hw : w.toNat ≤ 0x10FE) : (s.setPc w).Inv :=
  { h with pcBound := hw }

theorem setMem (h : s.Inv) {m : Memory} (hm : m.wf) : (s.setMem m).Inv :=
  { h with memWf := hm }

/-- From a PC a fetch completes at, the default advance stays far below the bound. -/
theorem advance (h : s.Inv) (hpc : s.pc.toNat ≤ 4094) : s.advance.Inv :=
  h.setPc (by bv_omega)

theorem advance_of_eq (h : s.Inv) (hs : s.pc.toNat ≤ 4094) (hmem : t.mem = s.mem) (hstack : t.stack = s.stack)
    (hparams : t.params = s.params) (hpc : t.pc = s.pc) : t.advance.Inv :=
  (h.of_eq hmem hstack hparams hpc).advance (hpc ▸ hs)

theorem skipIf (h : s.Inv) (hpc : s.pc.toNat ≤ 4094) (taken : Bool) : (s.skipIf taken).Inv := by
  cases taken with
  | false => exact h.advance hpc
  | true => exact h.setPc (by bv_omega)

/-- `Push` of an address of at most 4096 where the stack is not full (rule R27). -/
theorem pushed (h : s.Inv) (hfree : s.sp ≠ s.params.stackDepth) {a : Word} (ha : a.toNat ≤ 4096) :
    (s.setStack (s.stack ++ [a])).Inv where
  memWf := h.memWf
  stackBound := by
    have hbound : s.stack.length ≤ s.params.stackDepth := h.stackBound
    have hroom : s.stack.length ≠ s.params.stackDepth := hfree
    rw [State.setStack_sp, State.setStack_params, List.length_append, List.length_singleton]
    omega
  stackEntries := by
    simp only [State.setStack_stack, List.mem_append, List.mem_singleton]
    rintro b (hb | rfl)
    · exact h.stackEntries b hb
    · exact ha
  pcBound := h.pcBound

/-- `Pop` into PC: the entry popped was bounded as an entry of the stack (rule R28). -/
theorem popped (h : s.Inv) {l : List Word} {a : Word} (hl : s.stack = l ++ [a]) : ((s.setStack l).setPc a).Inv where
  memWf := h.memWf
  stackBound := by
    have hbound := h.stackBound
    rw [State.sp, hl, List.length_append] at hbound
    exact Nat.le_of_add_right_le hbound
  stackEntries := fun b hb => h.stackEntries b (by simp [hl, show b ∈ l from hb])
  pcBound := (h.stackEntries a (by simp [hl])).trans (by decide)

theorem of_resetValues (hmem : s.mem = []) (hstack : s.stack = []) (hpc : s.pc = 0x0200) : s.Inv where
  memWf := hmem ▸ Memory.wf_nil
  stackBound := by simp [State.sp, hstack]
  stackEntries := by simp [hstack]
  pcBound := by rw [hpc]; decide

end State.Inv

/-! ### Jump targets (rules R93, R151, R153) -/

@[simp] theorem addressOf_toNat (nnn : BitVec 12) : (addressOf nnn).toNat = nnn.toNat := by
  simp only [addressOf, BitVec.toNat_setWidth]; omega

@[simp] theorem State.reg16_toNat (s : State) (r : Reg) : (s.reg16 r).toNat = (s.reg r).toNat := by
  simp only [State.reg16, BitVec.toNat_setWidth]; omega

theorem addressOf_add_reg16_toNat (nnn : BitVec 12) (s : State) (r : Reg) :
    (addressOf nnn + s.reg16 r).toNat = nnn.toNat + (s.reg r).toNat := by
  have := (s.reg r).isLt
  rw [BitVec.toNat_add, addressOf_toNat, State.reg16_toNat]; omega

/-! ### Every step keeps the invariant -/

/-- Executed at a PC a fetch completes at, every instruction that completes keeps the invariant. -/
theorem exec_answers_inv {s : State} (h : s.Inv) (hpc : s.pc.toNat ≤ 4094) (i : Instr) :
    Answers State.Inv (exec i s) := by
  cases i with
  | ret =>
    rw [exec_ret]
    exact pop_answers fun _ _ hl => answers_next (h.popped hl)
  | jp nnn => exact answers_next (h.setPc (by rw [addressOf_toNat]; omega))
  | call nnn =>
    rw [exec_call]
    have hreturn : (s.pc + 2).toNat ≤ 4096 := by bv_omega
    exact push_answers fun hfree => answers_next ((h.pushed hfree hreturn).setPc (by rw [addressOf_toNat]; omega))
  | jpV0 nnn => exact answers_next (h.setPc (by rw [addressOf_add_reg16_toNat]; omega))
  | seImm | sneImm | seReg | sneReg => exact answers_next (h.skipIf hpc _)
  | skp x => exact withKeyLine_answers fun down _ => answers_next (h.skipIf hpc down)
  | sknp x => exact withKeyLine_answers fun down _ => answers_next (h.skipIf hpc !down)
  | ldRegKey x => exact exec_ldRegKey_answers (fun _ => h) fun _ _ => h.advance_of_eq hpc rfl rfl rfl rfl
  | rnd x nn =>
    exact answers_next (h.advance_of_eq hpc s.afterDraw_mem s.afterDraw_stack s.afterDraw_params s.afterDraw_pc)
  | ldBcd x =>
    refine checkAccess_answers fun hr => answers_next ((h.setMem (Memory.wf_writeBytes h.memWf ?_)).advance hpc)
    show s.base + 3 ≤ 4096
    omega
  | storeRegs x =>
    refine checkAccess_answers fun hr => answers_next
      ((h.setMem (Memory.wf_writeBytes h.memWf ?_)).advance_of_eq hpc rfl rfl rfl rfl)
    rw [State.lowRegs_length]; simp only [regCount] at *; omega
  | drw | loadRegs => exact checkAccess_answers fun _ => answers_next (h.advance_of_eq hpc rfl rfl rfl rfl)
  | _ => exact answers_next (h.advance_of_eq hpc rfl rfl rfl rfl)

theorem hostReset_inv (s : State) : (hostReset s).Inv := .of_resetValues rfl rfl rfl

/-- A ROM of at most 3584 bytes ends at or below 4096, inside memory. -/
theorem hostLoad_inv {s : State} (h : s.Inv) (rom : List Byte) : (hostLoad rom s).Inv := by
  unfold hostLoad
  split
  next hlen =>
    refine (hostReset_inv s).setMem (Memory.wf_writeBytes (hostReset_inv s).memWf ?_)
    simp only [Config.progBase, Config.progMax] at *; omega
  next => exact h

/-- Settles O47, event by event: an Ok tick by `exec_answers_inv` and its timer step, a load by `hostLoad_inv`. -/
theorem everyStepKeepsTheInvariant : Obligations.EveryStepKeepsTheInvariant := by
  intro s u h hstep
  have htaken : s.eventTaken.Inv := h.of_eq rfl rfl rfl rfl
  rcases step_cases hstep with ⟨-, hpc, w, i, t, -, -, hexec, rfl⟩ | ⟨-, -, rfl⟩ | ⟨-, rfl⟩ | ⟨rom, -, rfl⟩ |
    ⟨k, -, rfl⟩ | ⟨k, -, rfl⟩
  · have ht : t.Inv := (exec_answers_inv htaken hpc i).of_next hexec
    exact ht.of_eq t.endOfTick_mem t.endOfTick_stack t.endOfTick_params t.endOfTick_pc
  · exact htaken.of_eq rfl rfl rfl rfl
  · exact hostReset_inv _
  · exact hostLoad_inv htaken rom
  · exact htaken.of_eq rfl rfl rfl rfl
  · exact htaken.of_eq rfl rfl rfl rfl

/-- Settles O48: `State.reset` lists no memory cell and no stack entry, and its PC is 0x0200. -/
theorem resetStateMeetsTheInvariant : Obligations.ResetStateMeetsTheInvariant :=
  .of_resetValues rfl rfl rfl

/-! ### Frames: what each update of a state may change -/

namespace FrameExcept

variable {written : Reg → Prop} {parts : List Part} {s t : State}

theorem refl (written : Reg → Prop) (parts : List Part) (s : State) : FrameExcept written parts s s := by
  constructor <;> simp

theorem setPc (h : FrameExcept written parts s t) (w : Word) : FrameExcept written parts s (t.setPc w) := { h with }

theorem advance (h : FrameExcept written parts s t) : FrameExcept written parts s t.advance := h.setPc _

theorem skipIf (h : FrameExcept written parts s t) (taken : Bool) : FrameExcept written parts s (t.skipIf taken) := by
  cases taken with
  | false => exact h.advance
  | true => exact h.setPc _

theorem setI (h : FrameExcept written parts s t) (w : Word) (hp : .index ∈ parts := by simp) :
    FrameExcept written parts s (t.setI w) :=
  { h with index := fun hn => absurd hp hn }

theorem setMem (h : FrameExcept written parts s t) (m : Memory) (hp : .memory ∈ parts := by simp) :
    FrameExcept written parts s (t.setMem m) :=
  { h with memory := fun hn => absurd hp hn }

theorem setStack (h : FrameExcept written parts s t) (l : List Word) (hp : .stack ∈ parts := by simp) :
    FrameExcept written parts s (t.setStack l) :=
  { h with stack := fun hn => absurd hp hn }

theorem setDt (h : FrameExcept written parts s t) (b : Byte) (hp : .delayTimer ∈ parts := by simp) :
    FrameExcept written parts s (t.setDt b) :=
  { h with delayTimer := fun hn => absurd hp hn }

theorem setSt (h : FrameExcept written parts s t) (b : Byte) (hp : .soundTimer ∈ parts := by simp) :
    FrameExcept written parts s (t.setSt b) :=
  { h with soundTimer := fun hn => absurd hp hn }

theorem setFb (h : FrameExcept written parts s t) (f : Framebuffer) (hp : .screen ∈ parts := by simp) :
    FrameExcept written parts s (t.setFb f) :=
  { h with screen := fun hn => absurd hp hn }

theorem afterDraw (h : FrameExcept written parts s t) (hp : .randomInput ∈ parts := by simp) :
    FrameExcept written parts s t.afterDraw := by
  unfold State.afterDraw
  split <;> exact { h with randomInput := fun hn => absurd hp hn }

theorem setV (h : FrameExcept written parts s t) {v : Vector Byte 16}
    (hv : ∀ r : Reg, ¬ written r → v[r.val] = t.reg r) : FrameExcept written parts s (t.setV v) :=
  { h with regs := fun r hr => (hv r hr).trans (h.regs r hr) }

theorem setReg (h : FrameExcept written parts s t) {x : Reg} (hx : written x) (b : Byte) :
    FrameExcept written parts s (t.setReg x b) :=
  h.setV fun _ hr => t.reg_setReg_other b fun e => hr (e ▸ hx)

theorem setFlag (h : FrameExcept written parts s t) (hflag : written regVF) (f : Bool) :
    FrameExcept written parts s (t.setFlag f) :=
  h.setReg hflag _

theorem setFlagThenReg (h : FrameExcept written parts s t) (hflag : written regVF) {x : Reg} (hx : written x)
    (f : Bool) (b : Byte) : FrameExcept written parts s (t.setFlagThenReg f x b) :=
  (h.setFlag hflag f).setReg hx b

end FrameExcept

/-- Bytes filled in from register 0 up leave the registers above them (rule R244). -/
theorem fillRegs_above (v : Vector Byte 16) (bs : List Byte) {r : Reg} (hr : bs.length ≤ r.val) :
    (fillRegs v 0 bs)[r.val] = v[r.val] := by
  rw [fillRegs_getElem, dif_neg (by omega)]

/-! ### Frames: what each instruction may change -/

/-- The registers an instruction may change: those it writes by the table of rule R21, and VF where it writes it as a
flag (rule R33). -/
def mayWrite (i : Instr) (r : Reg) : Prop := writesReg i r = true ∨ writesFlag i = true ∧ r = regVF

/-- The parts of a state an instruction may change besides registers and PC. -/
@[simp] def mayChange : Instr → List Part
  | .cls | .drw _ _ _ => [.screen]
  | .ret | .call _ => [.stack]
  | .ldI _ | .addI _ | .ldGlyph _ | .loadRegs _ => [.index]
  | .ldBcd _ => [.memory]
  | .storeRegs _ => [.memory, .index]
  | .ldDtReg _ => [.delayTimer]
  | .ldStReg _ => [.soundTimer]
  | .rnd _ _ => [.randomInput]
  | _ => []

/-- Every instruction that completes changes nothing but PC and what `mayWrite` and `mayChange` list. -/
theorem exec_answers_frame (i : Instr) (s : State) :
    Answers (FrameExcept (mayWrite i) (mayChange i) s) (exec i s) := by
  have same := FrameExcept.refl (mayWrite i) (mayChange i) s
  cases i with
  | cls => exact answers_next (same.setFb _).advance
  | ret =>
    rw [exec_ret]
    exact pop_answers fun l a _ => answers_next ((same.setStack l).setPc a)
  | call nnn =>
    rw [exec_call]
    exact push_answers fun _ => answers_next ((same.setStack _).setPc _)
  | modesw => exact answers_next same.advance
  | jp | jpV0 => exact answers_next (same.setPc _)
  | seImm | sneImm | seReg | sneReg => exact answers_next (same.skipIf _)
  | skp | sknp => exact withKeyLine_answers fun _ _ => answers_next (same.skipIf _)
  | ldImm | addImm | ldReg | orReg | andReg | xorReg | ldRegDt =>
    exact answers_next (same.setReg (.inl (decide_eq_true rfl)) _).advance
  | addReg | subReg | shr | subn | shl =>
    exact answers_next (same.setFlagThenReg (.inr ⟨rfl, rfl⟩) (.inl (decide_eq_true rfl)) _ _).advance
  | ldRegKey x =>
    exact exec_ldRegKey_answers (fun _ => same) fun _ _ => (same.setReg (.inl (decide_eq_true rfl)) _).advance
  | rnd x nn => exact answers_next (same.afterDraw.setReg (.inl (decide_eq_true rfl)) _).advance
  | ldI | ldGlyph => exact answers_next (same.setI _).advance
  | addI x => exact answers_next ((same.setI _).setFlag (.inr ⟨rfl, rfl⟩) _).advance
  | drw => exact checkAccess_answers fun _ => answers_next ((same.setFb _).setFlag (.inr ⟨rfl, rfl⟩) _).advance
  | ldDtReg x => exact answers_next (same.setDt _).advance
  | ldStReg x => exact answers_next (same.setSt _).advance
  | ldBcd x => exact checkAccess_answers fun _ => answers_next (same.setMem _).advance
  | storeRegs x => exact checkAccess_answers fun _ => answers_next ((same.setMem _).setI _).advance
  | loadRegs x =>
    refine checkAccess_answers fun _ => answers_next ((same.setV fun r hr => ?_).setI _).advance
    have habove : ¬ r.val ≤ x.val := fun hle => hr (.inl (decide_eq_true hle))
    exact fillRegs_above _ _ (by rw [Memory.readBytes_length, regCount]; omega)

theorem exec_frame {i : Instr} {s t : State} (h : exec i s = .next t) : FrameExcept (mayWrite i) (mayChange i) s t :=
  (exec_answers_frame i s).of_next h

/-! ### Which instructions may change a part -/

theorem of_memory_mem_mayChange {i : Instr} (h : Part.memory ∈ mayChange i) :
    (∃ x, i = .ldBcd x) ∨ ∃ x, i = .storeRegs x := by
  cases i with
  | ldBcd x => exact .inl ⟨x, rfl⟩
  | storeRegs x => exact .inr ⟨x, rfl⟩
  | _ => simp at h

theorem of_screen_mem_mayChange {i : Instr} (h : Part.screen ∈ mayChange i) :
    i = .cls ∨ ∃ x y n, i = .drw x y n := by
  cases i with
  | cls => exact .inl rfl
  | drw x y n => exact .inr ⟨x, y, n, rfl⟩
  | _ => simp at h

theorem of_stack_mem_mayChange {i : Instr} (h : Part.stack ∈ mayChange i) : i = .ret ∨ ∃ nnn, i = .call nnn := by
  cases i with
  | ret => exact .inl rfl
  | call nnn => exact .inr ⟨nnn, rfl⟩
  | _ => simp at h

theorem of_delayTimer_mem_mayChange {i : Instr} (h : Part.delayTimer ∈ mayChange i) : ∃ x, i = .ldDtReg x := by
  cases i with
  | ldDtReg x => exact ⟨x, rfl⟩
  | _ => simp at h

theorem of_soundTimer_mem_mayChange {i : Instr} (h : Part.soundTimer ∈ mayChange i) : ∃ x, i = .ldStReg x := by
  cases i with
  | ldStReg x => exact ⟨x, rfl⟩
  | _ => simp at h

/-! ### Only the named instructions change memory, screen, stack and registers -/

/-- Settles O53, from the frame of every instruction. -/
theorem onlyClearAndDrawChangeTheScreen : Obligations.OnlyClearAndDrawChangeTheScreen := by
  intro i s t h hcls hdrw
  refine (exec_frame h).screen fun hmem => ?_
  rcases of_screen_mem_mayChange hmem with e | ⟨x, y, n, e⟩
  · exact hcls e
  · exact hdrw x y n e

/-- Settles O54, from the frame of every instruction. -/
theorem onlyCallAndReturnChangeTheStack : Obligations.OnlyCallAndReturnChangeTheStack := by
  intro i s t h hret hcall
  refine (exec_frame h).stack fun hmem => ?_
  rcases of_stack_mem_mayChange hmem with e | ⟨nnn, e⟩
  · exact hret e
  · exact hcall nnn e

/-- Settles O55, from the frame of every instruction. -/
theorem registersChangeOnlyAsTabled : Obligations.RegistersChangeOnlyAsTabled := by
  intro i s t r h hreg hflag
  refine (exec_frame h).regs r ?_
  rintro (hw | ⟨hf, rfl⟩)
  · simp [hreg] at hw
  · exact hflag hf rfl

/-- A run of bytes written from `base` up leaves every byte outside it (rule R65). -/
theorem bytesKeptOutside_setMem (s : State) (base : Nat) (bs : List Byte) :
    BytesKeptOutside base bs.length s (s.setMem (s.mem.writeBytes base bs)) :=
  fun _ => Memory.read_writeBytes_outside s.mem

theorem exec_ldBcd_memory {x : Reg} {s t : State} (h : exec (.ldBcd x) s = .next t) :
    s.base + 3 ≤ 4096 ∧ BytesKeptOutside s.base 3 s t := by
  obtain ⟨hr, e⟩ := checkAccess_next h
  cases e
  exact ⟨by omega, bytesKeptOutside_setMem s s.base (decimalDigits (s.reg x))⟩

theorem exec_storeRegs_memory {x : Reg} {s t : State} (h : exec (.storeRegs x) s = .next t) :
    s.base + (x.val + 1) ≤ 4096 ∧ BytesKeptOutside s.base (x.val + 1) s t := by
  obtain ⟨hr, e⟩ := checkAccess_next h
  cases e
  have hkept := bytesKeptOutside_setMem s s.base (s.lowRegs x)
  rw [State.lowRegs_length] at hkept
  exact ⟨by simp only [regCount] at hr; omega, hkept⟩

/-- Settles O52: the frame for the 33 instructions, the run of bytes written for the two stores. -/
theorem onlyStoresChangeMemory : Obligations.OnlyStoresChangeMemory := by
  intro i s t h
  refine ⟨fun hbcd hstore => (exec_frame h).memory fun hmem => ?_, ?_, ?_⟩
  · rcases of_memory_mem_mayChange hmem with ⟨x, e⟩ | ⟨x, e⟩
    · exact hbcd x e
    · exact hstore x e
  · rintro x rfl; exact exec_ldBcd_memory h
  · rintro x rfl; exact exec_storeRegs_memory h

/-! ### PC -/

/-- Every instruction that does not redirect control flow makes the default advance (rule R126). -/
theorem exec_answers_pc {i : Instr} (hr : redirects i = false) (s : State) :
    Answers (fun t => t.pc = s.pc + 2) (exec i s) := by
  cases i with
  | ret | jp | call | jpV0 | seImm | sneImm | seReg | sneReg | skp | sknp | ldRegKey => cases hr
  | drw | ldBcd | storeRegs | loadRegs => exact checkAccess_answers fun _ => answers_next rfl
  | rnd x nn => exact answers_next (congrArg (· + 2) s.afterDraw_pc)
  | _ => exact answers_next rfl

/-- Settles O56: `exec_answers_pc` for an instruction that completes. -/
theorem pcAdvancesByTwoUnlessRedirected : Obligations.PcAdvancesByTwoUnlessRedirected :=
  fun _ s _ h hr => (exec_answers_pc hr s).of_next h

/-! ### Timers -/

/-- A tick at a PC a fetch completes at runs the instruction its two bytes decode to (rules R122, R123). -/
theorem step_of_decoded {s : State} {i : Instr} (hnext : s.nextEvent = .tick) (hpc : s.pc.toNat ≤ 4094)
    (hi : decodeWord (wordOfBytes (s.byteAt s.pc.toNat) (s.byteAt (s.pc.toNat + 1))) = some i) :
    step s = timersAfter (exec i s.eventTaken) := by
  have hfetch := fetch_ok (s := s.eventTaken) hpc
  simp only [State.eventTaken_pc, State.eventTaken_byteAt] at hfetch
  simp only [step_tick hnext, tick, hfetch, hi]

/-- Before the timer step only FX15 has written DT, and only FX18 ST (rules R231, R232). -/
theorem exec_timers {i : Instr} {s t : State} (h : exec i s = .next t) :
    (∀ x, i = .ldDtReg x → t.dt = s.reg x) ∧ ((∀ x, i ≠ .ldDtReg x) → t.dt = s.dt) ∧
    (∀ x, i = .ldStReg x → t.st = s.reg x) ∧ ((∀ x, i ≠ .ldStReg x) → t.st = s.st) := by
  refine ⟨?_, fun hne => (exec_frame h).delayTimer fun hmem => ?_, ?_,
    fun hne => (exec_frame h).soundTimer fun hmem => ?_⟩
  · rintro x rfl; cases h; rfl
  · obtain ⟨x, e⟩ := of_delayTimer_mem_mayChange hmem
    exact hne x e
  · rintro x rfl; cases h; rfl
  · obtain ⟨x, e⟩ := of_soundTimer_mem_mayChange hmem
    exact hne x e

/-- Settles O9: `exec_timers` says what the instruction leaves in DT and ST, and the timer step that follows it counts
both down under per_tick and is nothing under decoupled. -/
theorem timersCountDownOncePerOkTick : Obligations.TimersCountDownOncePerOkTick := by
  intro s u i hnext hpc hi hstep
  rw [step_of_decoded hnext hpc hi] at hstep
  obtain ⟨t, hexec, rfl⟩ := timersAfter_next hstep
  have hparams : t.params = s.params := (exec_frame hexec).params
  have htimers := exec_timers hexec
  simp only [State.eventTaken_reg, State.eventTaken_dt, State.eventTaken_st] at htimers
  constructor <;> intro hpolicy <;> rw [← hparams] at hpolicy
  · obtain ⟨hdtWritten, hdtKept, hstWritten, hstKept⟩ := htimers
    rw [t.endOfTick_perTick hpolicy, State.timerStep_dt, State.timerStep_st, countDown_toNat, countDown_toNat]
    exact ⟨fun x e => by rw [hdtWritten x e], fun hne => by rw [hdtKept hne],
      fun x e => by rw [hstWritten x e], fun hne => by rw [hstKept hne]⟩
  · rw [t.endOfTick_decoupled hpolicy]
    exact htimers

theorem step_timerTick {s : State} (h : s.nextEvent = .timerTick) : step s = hostTimerTick s.eventTaken := by
  rw [step, h, runEvent]

/-- Settles O10, by the two timer policies. -/
theorem timerTickStepsOnlyTheTimers : Obligations.TimerTickStepsOnlyTheTimers := by
  constructor <;> intro s hnext hpolicy
  · have hstep : step s = .next s.eventTaken.timerStep := by simp [step_timerTick hnext, hostTimerTick, hpolicy]
    exact ⟨_, hstep, countDown_toNat s.dt, countDown_toNat s.st, rfl⟩
  · simp [step_timerTick hnext, hostTimerTick, hpolicy]

/-! ### Reset values and the host's view -/

/-- What an unlisted address reads as is its reset contents (rules R31, R39, R66). -/
theorem background_eq_resetByte (a : Nat) : background a = resetByte a := by
  unfold background resetByte
  split
  next => rfl
  next h => exact List.getD_eq_default _ _ (show 80 ≤ a by omega)

theorem hasResetValues_reset : HasResetValues State.reset where
  regs r := by simp [State.reg, State.reset]
  index := rfl
  pc := rfl
  stack := rfl
  timers := ⟨rfl, rfl⟩
  screen := Framebuffer.cell_clear

/-- Memory after reset lists no cell. -/
theorem byteAt_reset (a : Nat) : State.reset.byteAt a = resetByte a := background_eq_resetByte a

/-- Settles O11: the fields of `State.reset`, and its memory. -/
theorem resetStateHoldsTheResetValues : Obligations.ResetStateHoldsTheResetValues :=
  ⟨hasResetValues_reset, fun a _ => byteAt_reset a, by decide, by decide⟩

theorem State.hostView_cells (s : State) : s.hostView.cells = s.cellGrid := by rw [State.hostView]

theorem State.cellGrid_length (s : State) : s.cellGrid.length = 2048 := by
  rw [State.cellGrid, List.length_map, List.length_range]

theorem State.cellGrid_getElem? (s : State) {x y : Nat} (hx : x < 64) (hy : y < 32) :
    s.cellGrid[64 * y + x]? = some (s.pixel x y) := by
  have hcol : (64 * y + x) % 64 = x := by omega
  have hrow : (64 * y + x) / 64 = y := by omega
  rw [State.cellGrid, List.getElem?_map, List.getElem?_range (by omega), Option.map_some, hcol, hrow]

/-- Settles O16: column and row of a cell are the remainder and the quotient of its index by 64. -/
theorem hostReadsTheGridRowMajor : Obligations.HostReadsTheGridRowMajor := by
  intro s
  rw [State.hostView_cells]
  exact ⟨s.cellGrid_length, fun _ hx _ hy => s.cellGrid_getElem? hx hy, rfl, rfl⟩

/-! ### CALL, RET and RND -/

/-- Settles O20, by whether the stack is full. -/
theorem callPushesTheReturnAddress : Obligations.CallPushesTheReturnAddress := by
  refine fun nnn => ⟨by simp [decodeWord], fun s hfree => ?_, fun s hfull => ?_⟩ <;> rw [exec_call]
  · refine ⟨_, s.pc + 2, push_ok hfree _ _, rfl, BitVec.toNat_add _ _, ?_, addressOf_toNat nnn,
      ((FrameExcept.refl _ _ s).setStack _).setPc _⟩
    simp [State.sp]
  · exact push_full hfull _ _

/-- Settles O21, by whether the stack holds an entry. -/
theorem returnPopsTheNewestAddress : Obligations.ReturnPopsTheNewestAddress := by
  refine ⟨by decide, fun s rest a hstack => ?_, fun s hsp => ?_⟩ <;> rw [exec_ret]
  · refine ⟨_, pop_concat hstack _, rfl, rfl, ?_, ((FrameExcept.refl _ _ s).setStack rest).setPc a⟩
    simp [State.sp, hstack]
  · exact pop_empty (List.eq_nil_of_length_eq_zero hsp) _

/-- CXNN completes with the drawn byte masked, one byte taken and nothing else changed (rule R173). -/
theorem exec_rnd (x : Reg) (nn : Byte) (s : State) : ∃ t, exec (.rnd x nn) s = .next t ∧
    t.reg x = s.randomByte &&& nn ∧ t.randQueue = s.afterDraw.randQueue ∧ t.draws = s.afterDraw.draws ∧
    t.pc = s.pc + 2 ∧ FrameExcept (· = x) [.randomInput] s t :=
  ⟨_, rfl, State.reg_setReg_same .., rfl, rfl, congrArg (· + 2) s.afterDraw_pc,
    ((FrameExcept.refl (· = x) _ s).afterDraw.setReg rfl _).advance⟩

/-- Settles O29: `exec_rnd`, with a byte queued and with none. -/
theorem randomIsTheInputByteMasked : Obligations.RandomIsTheInputByteMasked := by
  refine fun x nn => ⟨by simp [decodeWord], fun s => ⟨fun b rest hqueue => ?_, fun hqueue => ?_⟩⟩
  · simpa [State.randomByte, State.afterDraw, hqueue] using exec_rnd x nn s
  · simpa [State.randomByte, State.afterDraw, hqueue] using exec_rnd x nn s

end Sys2Proof.Machine
end

section
/-! PROOFS of the family 20_memory: the fetch (O7), the bound check of DXYN (O34), and the bytes FX55 leaves, which a
fetch reads (O46). -/
namespace Sys2Proof.Machine

/-! ### Fetch (rules R60, R64, R123) -/

/-- A tick at a PC no fetch completes at is the fault of that fetch: nothing is decoded (rules R122, R279). -/
theorem step_fetch_fault {s : State} (hnext : s.nextEvent = .tick) (hpc : 4094 < s.pc.toNat) :
    step s = .fault (.memoryOutOfBounds (if 4095 < s.pc.toNat then s.pc.toNat else 4096)) := by
  rw [step_tick hnext]
  rcases tick_cases s.eventTaken with ⟨-, e⟩ | ⟨hle, -⟩
  · exact e
  · exact absurd hpc (Nat.not_lt.2 hle)

/-- Settles O7: `fetch_ok` up to 4094, and above it `step_fetch_fault` by whether PC itself is in memory. -/
theorem fetchReadsTwoBytesOrFaults : Obligations.FetchReadsTwoBytesOrFaults := by
  refine ⟨fun s hpc => ⟨_, fetch_ok hpc, ?_⟩, fun s hnext habove => ?_, fun s hnext htop => ?_⟩
  · rw [toNat_wordOfBytes, Nat.mul_comm]
  · rw [step_fetch_fault hnext (by omega), if_pos habove]
  · rw [step_fetch_fault hnext (by omega), if_neg (by omega)]

/-! ### DXYN (rules R64, R204) -/

/-- Settles O34: the rows of the sprite do not pass the bound check. -/
theorem drawFaultsOnARowAboveMemory : Obligations.DrawFaultsOnARowAboveMemory :=
  fun _ _ _ _ _ hn habove => ⟨checkAccess_fault (by omega) (by omega) _, fun _ => rfl⟩

/-! ### FX55 (rules R61, R243) -/

/-- FX55 leaves `V[k]` at the k-th address from I up, for each register it stores. -/
theorem exec_storeRegs_byteAt {x k : Reg} {s t : State} (h : exec (.storeRegs x) s = .next t) (hk : k ≤ x) :
    t.byteAt (s.base + k.val) = s.reg k := by
  obtain ⟨-, e⟩ := checkAccess_next h
  cases e
  have hlen : k.val < (s.lowRegs x).length := by
    rw [State.lowRegs_length, regCount]
    exact Nat.lt_succ_of_le hk
  calc (s.mem.writeBytes s.base (s.lowRegs x)).read (s.base + k.val)
      = (s.lowRegs x)[k.val] := Memory.read_writeBytes_inside _ _ _ _ hlen
    _ = s.reg k := State.lowRegs_getElem s x k.val hlen

/-- Settles O46: the bytes at I and I + 1 are V0 and V1, and the store's own bound check puts both inside memory. -/
theorem storedOpcodeIsTheNextFetch : Obligations.StoredOpcodeIsTheNextFetch := by
  intro x s t u hx hstore hbytes hpc
  have hinside : s.base + (x.val + 1) ≤ 4096 := (exec_storeRegs_memory hstore).1
  have hx' : 1 ≤ x.val := hx
  have haddr : u.pc.toNat = s.base := congrArg BitVec.toNat hpc
  have hhigh : u.byteAt s.base = s.reg 0 := (hbytes _).trans (exec_storeRegs_byteAt hstore (Fin.zero_le x))
  have hlow : u.byteAt (s.base + 1) = s.reg 1 := (hbytes _).trans (exec_storeRegs_byteAt hstore hx)
  rw [fetch_ok (by omega), haddr, hhigh, hlow]

end Sys2Proof.Machine
end

section
/-! PROOFS of the family 30_encoding: decoder and encoder are inverse to each other (O1, O2), the opcode map of rule R96
selects exactly what they code (O3), the illegal opcodes (O4), eight words written out (O5). -/
namespace Sys2Proof.Machine

/-! ### An opcode is its fields, in every format (rules R91, R92) -/

section Formats

variable {w : Word} {op n : BitVec 4} {nn : Byte}

theorem formatA_fields (w : Word) : formatA (fieldOP w) (fieldNNN w) = w := by
  apply BitVec.eq_of_toNat_eq
  rw [toNat_formatA, toNat_fieldOP, toNat_fieldNNN]
  have := w.isLt
  omega

theorem formatXI_fields (w : Word) : formatXI (fieldOP w) (fieldX w) (fieldNN w) = w := by
  apply BitVec.eq_of_toNat_eq
  rw [toNat_formatXI, toNat_fieldOP, val_fieldX, toNat_fieldNN]
  have := w.isLt
  omega

theorem formatXYN_fields (w : Word) : formatXYN (fieldOP w) (fieldX w) (fieldY w) (fieldN w) = w := by
  apply BitVec.eq_of_toNat_eq
  rw [toNat_formatXYN, toNat_fieldOP, val_fieldX, val_fieldY, toNat_fieldN]
  have := w.isLt
  omega

theorem formatA_eq (hop : fieldOP w = op) : formatA op (fieldNNN w) = w := hop ▸ formatA_fields w

theorem formatXI_eq (hop : fieldOP w = op) : formatXI op (fieldX w) (fieldNN w) = w := hop ▸ formatXI_fields w

theorem formatXF_eq (hop : fieldOP w = op) (hnn : fieldNN w = nn) : formatXI op (fieldX w) nn = w :=
  hnn ▸ formatXI_eq hop

theorem formatXYN_eq (hop : fieldOP w = op) : formatXYN op (fieldX w) (fieldY w) (fieldN w) = w :=
  hop ▸ formatXYN_fields w

theorem formatXY_eq (hop : fieldOP w = op) (hn : fieldN w = n) : formatXYN op (fieldX w) (fieldY w) n = w :=
  hn ▸ formatXYN_eq hop

end Formats

/-! ### The decoder, by the high nibble (rule R94) -/

theorem fieldOP_cases (w : Word) : fieldOP w ∈
    [0x0#4, 0x1#4, 0x2#4, 0x3#4, 0x4#4, 0x5#4, 0x6#4, 0x7#4, 0x8#4, 0x9#4, 0xA#4, 0xB#4, 0xC#4, 0xD#4, 0xE#4, 0xF#4] := by
  generalize fieldOP w = op
  revert op
  decide

/-- What the decoder does in each of the 16 families. -/
theorem decodeWord_cases (w : Word) :
    (fieldOP w = 0x0#4 ∧ decodeWord w = decodeFamily0 w) ∨
    (fieldOP w = 0x1#4 ∧ decodeWord w = some (.jp (fieldNNN w))) ∨
    (fieldOP w = 0x2#4 ∧ decodeWord w = some (.call (fieldNNN w))) ∨
    (fieldOP w = 0x3#4 ∧ decodeWord w = some (.seImm (fieldX w) (fieldNN w))) ∨
    (fieldOP w = 0x4#4 ∧ decodeWord w = some (.sneImm (fieldX w) (fieldNN w))) ∨
    (fieldOP w = 0x5#4 ∧ decodeWord w = decodeNibble0 w (.seReg (fieldX w) (fieldY w))) ∨
    (fieldOP w = 0x6#4 ∧ decodeWord w = some (.ldImm (fieldX w) (fieldNN w))) ∨
    (fieldOP w = 0x7#4 ∧ decodeWord w = some (.addImm (fieldX w) (fieldNN w))) ∨
    (fieldOP w = 0x8#4 ∧ decodeWord w = decodeFamily8 w) ∨
    (fieldOP w = 0x9#4 ∧ decodeWord w = decodeNibble0 w (.sneReg (fieldX w) (fieldY w))) ∨
    (fieldOP w = 0xA#4 ∧ decodeWord w = some (.ldI (fieldNNN w))) ∨
    (fieldOP w = 0xB#4 ∧ decodeWord w = some (.jpV0 (fieldNNN w))) ∨
    (fieldOP w = 0xC#4 ∧ decodeWord w = some (.rnd (fieldX w) (fieldNN w))) ∨
    (fieldOP w = 0xD#4 ∧ decodeWord w = some (.drw (fieldX w) (fieldY w) (fieldN w).toNat)) ∨
    (fieldOP w = 0xE#4 ∧ decodeWord w = decodeFamilyE w) ∨
    (fieldOP w = 0xF#4 ∧ decodeWord w = decodeFamilyF w) := by
  have hop := fieldOP_cases w
  simp only [List.mem_cons, List.not_mem_nil, or_false] at hop
  rcases hop with h | h | h | h | h | h | h | h | h | h | h | h | h | h | h | h <;> simp [decodeWord, h]

/-! ### Decoding an encoded instruction -/

theorem decodeWord_encode {i : Instr} (hwf : i.wellFormed = true) : decodeWord (encode i) = some i := by
  cases i with
  | cls | ret | modesw => rfl
  | jp | call | ldI | jpV0 => simp [encode, decodeWord]
  | seImm | sneImm | ldImm | addImm | rnd => simp [encode, decodeWord]
  | seReg | sneReg => simp [encode, decodeWord, decodeNibble0]
  | ldReg | orReg | andReg | xorReg | addReg | subReg | shr | subn | shl => simp [encode, decodeWord, decodeFamily8]
  | drw x y n =>
    have hn : n < 16 := of_decide_eq_true hwf
    simp [encode, decodeWord, Nat.mod_eq_of_lt hn]
  | skp | sknp => simp [encode, decodeWord, decodeFamilyE]
  | ldRegDt | ldRegKey | ldDtReg | ldStReg | addI | ldGlyph | ldBcd | storeRegs | loadRegs =>
    simp [encode, decodeWord, decodeFamilyF]

theorem decodeBytes_of_decodeWord {w : Word} {i : Instr} (h : decodeWord w = some i) (rest : List Byte) :
    decodeBytes (highByte w :: lowByte w :: rest) = .ok (i, rest) := by
  rw [decodeBytes, wordOfBytes_highByte_lowByte, h]

/-- Settles O1: `decodeWord_encode`, and the two bytes of a word make that word again. -/
theorem encodeThenDecodeGivesTheInstruction : Obligations.EncodeThenDecodeGivesTheInstruction :=
  fun _ rest hwf => decodeBytes_of_decodeWord (decodeWord_encode hwf) rest

/-! ### Encoding a decoded instruction -/

/-- `w` is the opcode of the well-formed instruction `i`. -/
def IsOpcodeOf (w : Word) (i : Instr) : Prop := i.wellFormed = true ∧ encode i = w

section Families

variable {w : Word} {i j : Instr}

theorem IsOpcodeOf.decodeWord_eq (h : IsOpcodeOf w i) : decodeWord w = some i :=
  h.2 ▸ decodeWord_encode h.1

theorem isOpcodeOf_drw (hop : fieldOP w = 0xD#4) : IsOpcodeOf w (.drw (fieldX w) (fieldY w) (fieldN w).toNat) := by
  refine ⟨decide_eq_true (fieldN w).isLt, ?_⟩
  rw [encode, BitVec.ofNat_toNat, BitVec.setWidth_eq]
  exact formatXYN_eq hop

theorem isOpcodeOf_of_ite {p : Prop} [Decidable p] {d : Option Instr} (hj : p → IsOpcodeOf w j)
    (hd : d = some i → IsOpcodeOf w i) (h : (if p then some j else d) = some i) : IsOpcodeOf w i := by
  split at h
  next hp => exact Option.some.inj h ▸ hj hp
  next => exact hd h

theorem isOpcodeOf_of_decodeFamily0 : decodeFamily0 w = some i → IsOpcodeOf w i := by
  unfold decodeFamily0
  iterate 3 refine isOpcodeOf_of_ite (fun hw => ⟨rfl, hw.symm⟩) ?_
  nofun

theorem decodeNibble0_some (h : decodeNibble0 w j = some i) : fieldN w = 0x0#4 ∧ j = i := by
  unfold decodeNibble0 at h
  split at h
  next hn => exact ⟨hn, Option.some.inj h⟩
  next => cases h

theorem isOpcodeOf_of_decodeFamily8 (hop : fieldOP w = 0x8#4) : decodeFamily8 w = some i → IsOpcodeOf w i := by
  unfold decodeFamily8
  iterate 9 refine isOpcodeOf_of_ite (fun hn => ⟨rfl, formatXY_eq hop hn⟩) ?_
  nofun

theorem isOpcodeOf_of_decodeFamilyE (hop : fieldOP w = 0xE#4) : decodeFamilyE w = some i → IsOpcodeOf w i := by
  unfold decodeFamilyE
  iterate 2 refine isOpcodeOf_of_ite (fun hnn => ⟨rfl, formatXF_eq hop hnn⟩) ?_
  nofun

theorem isOpcodeOf_of_decodeFamilyF (hop : fieldOP w = 0xF#4) : decodeFamilyF w = some i → IsOpcodeOf w i := by
  unfold decodeFamilyF
  iterate 9 refine isOpcodeOf_of_ite (fun hnn => ⟨rfl, formatXF_eq hop hnn⟩) ?_
  nofun

theorem isOpcodeOf_of_decodeWord (h : decodeWord w = some i) : IsOpcodeOf w i := by
  rcases decodeWord_cases w with ⟨hop, e⟩ | ⟨hop, e⟩ | ⟨hop, e⟩ | ⟨hop, e⟩ | ⟨hop, e⟩ | ⟨hop, e⟩ | ⟨hop, e⟩ | ⟨hop, e⟩ |
    ⟨hop, e⟩ | ⟨hop, e⟩ | ⟨hop, e⟩ | ⟨hop, e⟩ | ⟨hop, e⟩ | ⟨hop, e⟩ | ⟨hop, e⟩ | ⟨hop, e⟩ <;> rw [e] at h
  · exact isOpcodeOf_of_decodeFamily0 h
  · cases h; exact ⟨rfl, formatA_eq hop⟩
  · cases h; exact ⟨rfl, formatA_eq hop⟩
  · cases h; exact ⟨rfl, formatXI_eq hop⟩
  · cases h; exact ⟨rfl, formatXI_eq hop⟩
  · obtain ⟨hn, rfl⟩ := decodeNibble0_some h; exact ⟨rfl, formatXY_eq hop hn⟩
  · cases h; exact ⟨rfl, formatXI_eq hop⟩
  · cases h; exact ⟨rfl, formatXI_eq hop⟩
  · exact isOpcodeOf_of_decodeFamily8 hop h
  · obtain ⟨hn, rfl⟩ := decodeNibble0_some h; exact ⟨rfl, formatXY_eq hop hn⟩
  · cases h; exact ⟨rfl, formatA_eq hop⟩
  · cases h; exact ⟨rfl, formatA_eq hop⟩
  · cases h; exact ⟨rfl, formatXI_eq hop⟩
  · cases h; exact isOpcodeOf_drw hop
  · exact isOpcodeOf_of_decodeFamilyE hop h
  · exact isOpcodeOf_of_decodeFamilyF hop h

end Families

/-- Settles O2: a branch of the decoder fixes the nibbles that carry no operand, and its instruction carries the rest. -/
theorem decodeThenEncodeGivesTheOpcode : Obligations.DecodeThenEncodeGivesTheOpcode :=
  fun _ _ h => isOpcodeOf_of_decodeWord h

/-! ### The opcode map (rules R95, R96) -/

section OpcodeMap
open Laws.EncodesToItsRow

/-- Every instruction has a row that selects its opcode. -/
theorem exists_row_selects_encode : ∀ i : Instr, Statement i
  | .cls => cls
  | .ret => ret
  | .modesw => modesw
  | .jp nnn => jp nnn
  | .call nnn => call nnn
  | .seImm x nn => seImm x nn
  | .sneImm x nn => sneImm x nn
  | .seReg x y => seReg x y
  | .ldImm x nn => ldImm x nn
  | .addImm x nn => addImm x nn
  | .ldReg x y => ldReg x y
  | .orReg x y => orReg x y
  | .andReg x y => andReg x y
  | .xorReg x y => xorReg x y
  | .addReg x y => addReg x y
  | .subReg x y => subReg x y
  | .shr x y => shr x y
  | .subn x y => subn x y
  | .shl x y => shl x y
  | .sneReg x y => sneReg x y
  | .ldI nnn => ldI nnn
  | .jpV0 nnn => jpV0 nnn
  | .rnd x nn => rnd x nn
  | .drw x y n => drw x y n
  | .skp x => skp x
  | .sknp x => sknp x
  | .ldRegDt x => ldRegDt x
  | .ldRegKey x => ldRegKey x
  | .ldDtReg x => ldDtReg x
  | .ldStReg x => ldStReg x
  | .addI x => addI x
  | .ldGlyph x => ldGlyph x
  | .ldBcd x => ldBcd x
  | .storeRegs x => storeRegs x
  | .loadRegs x => loadRegs x

variable {w : Word} {op n : BitVec 4} {nn : Byte}

/-! A masked opcode shows the fields its mask keeps: the opcode is its own fields, masked with a `…_masked` lemma. -/

theorem eq_of_allOnes_masked {v : Word} (h : w &&& 0xFFFF#16 = v) : v = w := h ▸ BitVec.and_allOnes

theorem fieldOP_of_masked (h : w &&& 0xF000#16 = formatA op 0) : fieldOP w = op := by
  rw [← formatA_fields w, formatA_masked] at h
  simpa using congrArg fieldOP h

theorem formatXF_of_masked (h : w &&& 0xF0FF#16 = formatXI op 0 nn) : formatXI op (fieldX w) nn = w := by
  rw [← formatXI_fields w, formatXF_masked] at h
  exact formatXF_eq (by simpa using congrArg fieldOP h) (by simpa using congrArg fieldNN h)

theorem formatXY_of_masked (h : w &&& 0xF00F#16 = formatXYN op 0 0 n) : formatXYN op (fieldX w) (fieldY w) n = w := by
  rw [← formatXYN_fields w, formatXY_masked] at h
  exact formatXY_eq (by simpa using congrArg fieldOP h) (by simpa using congrArg fieldN h)

/-- A row selects only opcodes of its own instruction. -/
theorem exists_isOpcodeOf_of_selects {r : OpcodeRow} (hr : r ∈ opcodeRows) (h : r.selects w = true) :
    ∃ i, i.pattern = r.pattern ∧ IsOpcodeOf w i := by
  have hm : w &&& r.mask = r.value := beq_iff_eq.1 h
  simp only [opcodeRows, List.mem_append, List.mem_cons, List.not_mem_nil, or_false, or_assoc] at hr
  rcases hr with rfl | rfl | rfl | rfl | rfl | rfl | rfl | rfl | rfl | rfl | rfl | rfl | rfl | rfl | rfl | rfl | rfl |
    rfl | rfl | rfl | rfl | rfl | rfl | rfl | rfl | rfl | rfl | rfl | rfl | rfl | rfl | rfl | rfl | rfl | rfl
  · exact ⟨.cls, rfl, rfl, eq_of_allOnes_masked hm⟩
  · exact ⟨.ret, rfl, rfl, eq_of_allOnes_masked hm⟩
  · exact ⟨.jp _, rfl, rfl, formatA_eq (fieldOP_of_masked hm)⟩
  · exact ⟨.call _, rfl, rfl, formatA_eq (fieldOP_of_masked hm)⟩
  · exact ⟨.seImm _ _, rfl, rfl, formatXI_eq (fieldOP_of_masked hm)⟩
  · exact ⟨.sneImm _ _, rfl, rfl, formatXI_eq (fieldOP_of_masked hm)⟩
  · exact ⟨.seReg _ _, rfl, rfl, formatXY_of_masked hm⟩
  · exact ⟨.ldImm _ _, rfl, rfl, formatXI_eq (fieldOP_of_masked hm)⟩
  · exact ⟨.addImm _ _, rfl, rfl, formatXI_eq (fieldOP_of_masked hm)⟩
  · exact ⟨.ldReg _ _, rfl, rfl, formatXY_of_masked hm⟩
  · exact ⟨.orReg _ _, rfl, rfl, formatXY_of_masked hm⟩
  · exact ⟨.andReg _ _, rfl, rfl, formatXY_of_masked hm⟩
  · exact ⟨.xorReg _ _, rfl, rfl, formatXY_of_masked hm⟩
  · exact ⟨.addReg _ _, rfl, rfl, formatXY_of_masked hm⟩
  · exact ⟨.subReg _ _, rfl, rfl, formatXY_of_masked hm⟩
  · exact ⟨.shr _ _, rfl, rfl, formatXY_of_masked hm⟩
  · exact ⟨.subn _ _, rfl, rfl, formatXY_of_masked hm⟩
  · exact ⟨.shl _ _, rfl, rfl, formatXY_of_masked hm⟩
  · exact ⟨.sneReg _ _, rfl, rfl, formatXY_of_masked hm⟩
  · exact ⟨.ldI _, rfl, rfl, formatA_eq (fieldOP_of_masked hm)⟩
  · exact ⟨.jpV0 _, rfl, rfl, formatA_eq (fieldOP_of_masked hm)⟩
  · exact ⟨.rnd _ _, rfl, rfl, formatXI_eq (fieldOP_of_masked hm)⟩
  · exact ⟨.drw _ _ _, rfl, isOpcodeOf_drw (fieldOP_of_masked hm)⟩
  · exact ⟨.skp _, rfl, rfl, formatXF_of_masked hm⟩
  · exact ⟨.sknp _, rfl, rfl, formatXF_of_masked hm⟩
  · exact ⟨.ldRegDt _, rfl, rfl, formatXF_of_masked hm⟩
  · exact ⟨.ldRegKey _, rfl, rfl, formatXF_of_masked hm⟩
  · exact ⟨.ldDtReg _, rfl, rfl, formatXF_of_masked hm⟩
  · exact ⟨.ldStReg _, rfl, rfl, formatXF_of_masked hm⟩
  · exact ⟨.addI _, rfl, rfl, formatXF_of_masked hm⟩
  · exact ⟨.ldGlyph _, rfl, rfl, formatXF_of_masked hm⟩
  · exact ⟨.ldBcd _, rfl, rfl, formatXF_of_masked hm⟩
  · exact ⟨.storeRegs _, rfl, rfl, formatXF_of_masked hm⟩
  · exact ⟨.loadRegs _, rfl, rfl, formatXF_of_masked hm⟩
  · exact ⟨.modesw, rfl, rfl, eq_of_allOnes_masked hm⟩

theorem decodeWord_eq_none_of_no_row (h : ∀ r ∈ opcodeRows, r.selects w = false) : decodeWord w = none := by
  refine Option.eq_none_iff_forall_ne_some.2 fun i hi => ?_
  obtain ⟨-, rfl⟩ := isOpcodeOf_of_decodeWord hi
  obtain ⟨r, hr, -, hsel⟩ := exists_row_selects_encode i
  simp [h r hr] at hsel

theorem decodeWord_map_pattern (w : Word) :
    (decodeWord w).map Instr.pattern = (opcodeRows.find? fun r => r.selects w).map OpcodeRow.pattern := by
  cases hfind : opcodeRows.find? fun r => r.selects w with
  | none =>
    have hnone : ∀ r ∈ opcodeRows, r.selects w = false := by simpa using hfind
    simp [decodeWord_eq_none_of_no_row hnone]
  | some r =>
    have hsel : r.selects w = true := List.find?_some (p := (OpcodeRow.selects · w)) hfind
    obtain ⟨i, hpat, hi⟩ := exists_isOpcodeOf_of_selects (List.mem_of_find?_eq_some hfind) hsel
    simp [hi.decodeWord_eq, hpat]

/-- Two different rows fix some bit at different values. -/
theorem eq_of_values_agree : ∀ r ∈ opcodeRows, ∀ q ∈ opcodeRows, r.value &&& q.mask = q.value &&& r.mask → r = q := by
  decide

theorem eq_of_selects {r q : OpcodeRow} (hr : r ∈ opcodeRows) (hq : q ∈ opcodeRows) (hrw : r.selects w = true)
    (hqw : q.selects w = true) : r = q := by
  have hrv : w &&& r.mask = r.value := beq_iff_eq.1 hrw
  have hqv : w &&& q.mask = q.value := beq_iff_eq.1 hqw
  refine eq_of_values_agree r hr q hq ?_
  rw [← hrv, ← hqv, BitVec.and_assoc, BitVec.and_assoc, BitVec.and_comm r.mask]

/-- A tick at a PC a fetch completes at faults on two bytes that decode to nothing (rules R122, R271). -/
theorem step_of_undecoded {s : State} (hnext : s.nextEvent = .tick) (hpc : s.pc.toNat ≤ 4094)
    (hw : w = wordOfBytes (s.byteAt s.pc.toNat) (s.byteAt (s.pc.toNat + 1))) (hnone : decodeWord w = none) :
    step s = .fault (.unrecognizedInstruction w s.pc) := by
  subst hw
  have hfetch := fetch_ok (s := s.eventTaken) hpc
  simp only [State.eventTaken_pc, State.eventTaken_byteAt] at hfetch
  simp only [step_tick hnext, tick, hfetch, hnone, raise, State.eventTaken_pc]

end OpcodeMap

/-- Settles O3: rows and encoder name the same opcodes, and no two rows agree on the bits both fix. -/
theorem decodeSelectsTheRowOfTheOpcodeMap : Obligations.DecodeSelectsTheRowOfTheOpcodeMap :=
  ⟨decodeWord_map_pattern, fun _ _ _ => eq_of_selects, rfl, fun _ _ hnext hpc hw hrows =>
    step_of_undecoded hnext hpc hw (decodeWord_eq_none_of_no_row hrows)⟩

/-! ### Illegal opcodes (rule R97) -/

theorem ite_some_eq_none_iff {p : Prop} [Decidable p] {i : Instr} {d : Option Instr} :
    (if p then some i else d) = none ↔ ¬ p ∧ d = none := by
  split <;> simp [*]

theorem decodeFamily0_eq_none {w : Word} : decodeFamily0 w = none ↔ w ∉ [0x00E0, 0x00EE, 0x00FF] := by
  simp [decodeFamily0, ite_some_eq_none_iff]

theorem decodeNibble0_eq_none {w : Word} {i : Instr} : decodeNibble0 w i = none ↔ fieldN w ≠ 0x0 := by
  simp [decodeNibble0]

theorem decodeFamily8_eq_none {w : Word} :
    decodeFamily8 w = none ↔ fieldN w ∈ [0x8, 0x9, 0xA, 0xB, 0xC, 0xD, 0xF] := by
  simp only [decodeFamily8, ite_some_eq_none_iff]
  generalize fieldN w = n
  revert n
  decide

theorem decodeFamilyE_eq_none {w : Word} : decodeFamilyE w = none ↔ fieldNN w ∉ [0x9E, 0xA1] := by
  simp [decodeFamilyE, ite_some_eq_none_iff]

theorem decodeFamilyF_eq_none {w : Word} :
    decodeFamilyF w = none ↔ fieldNN w ∉ [0x07, 0x0A, 0x15, 0x18, 0x1E, 0x29, 0x33, 0x55, 0x65] := by
  simp [decodeFamilyF, ite_some_eq_none_iff]

/-- Settles O4, family by family: one case of the list for each family that can decode to nothing, none for the rest. -/
theorem illegalOpcodesAreTheOnesListed : Obligations.IllegalOpcodesAreTheOnesListed := by
  intro w
  rw [← decodeFamily0_eq_none, ← decodeFamily8_eq_none, ← decodeFamilyE_eq_none, ← decodeFamilyF_eq_none]
  rcases decodeWord_cases w with ⟨hop, e⟩ | ⟨hop, e⟩ | ⟨hop, e⟩ | ⟨hop, e⟩ | ⟨hop, e⟩ | ⟨hop, e⟩ | ⟨hop, e⟩ | ⟨hop, e⟩ |
    ⟨hop, e⟩ | ⟨hop, e⟩ | ⟨hop, e⟩ | ⟨hop, e⟩ | ⟨hop, e⟩ | ⟨hop, e⟩ | ⟨hop, e⟩ | ⟨hop, e⟩ <;>
    simp [e, hop, decodeNibble0_eq_none]

/-- Settles O5: the decoder evaluated on the eight words. -/
theorem writtenOutOpcodesDecode : Obligations.WrittenOutOpcodesDecode := by
  unfold Obligations.WrittenOutOpcodesDecode
  decide

end Sys2Proof.Machine
end

section
/-! PROOFS of the family 40_execution_cycle: a step is the decoded instruction and then the timer step (O6); no
instruction but CXNN depends on the random input (O58). -/
namespace Sys2Proof.Machine

/-! ### The timer step (rules R128 to R130) -/

theorem countDown_eq_ofNat (b : Byte) : countDown b = BitVec.ofNat 8 (b.toNat - 1) := by
  rw [← countDown_toNat, BitVec.ofNat_toNat, BitVec.setWidth_eq]

theorem State.timerStep_eq (s : State) : s.timerStep =
    { s with dt := BitVec.ofNat 8 (s.dt.toNat - 1), st := BitVec.ofNat 8 (s.st.toNat - 1) } := by
  rw [← countDown_eq_ofNat, ← countDown_eq_ofNat]; rfl

/-- Settles O6: `step_of_decoded`, with the end of the tick by timer policy, which the instruction has not changed. -/
theorem stepRunsTheDecodedInstruction : Obligations.StepRunsTheDecodedInstruction := by
  intro s i hnext hpc hi
  rw [step_of_decoded hnext hpc hi]
  refine ⟨fun t hexec => ?_, fun f hexec => timersAfter_fault.2 hexec⟩
  have hparams : t.params = s.params := (exec_frame hexec).params
  rw [hexec, timersAfter, ← hparams]
  exact ⟨fun hpolicy => by rw [t.endOfTick_perTick hpolicy, t.timerStep_eq],
    fun hpolicy => by rw [t.endOfTick_decoupled hpolicy]⟩

/-! ### An update of the state carried through a shared operation -/

/-- The result with `g` applied to the next state it answers; a fault or a refusal carries no state (rule R275). -/
def mapNext (g : State → State) : Result → Result
  | .next t => .next (g t)
  | .fault f => .fault f
  | .refused r => .refused r

section MapNext

variable {g : State → State} {s s' : State}

theorem checkAccess_mapNext {base k : Nat} {body body' : Result} (hbody : body' = mapNext g body) :
    checkAccess base k body' = mapNext g (checkAccess base k body) := by
  unfold checkAccess
  split
  · rfl
  · exact hbody

theorem push_mapNext {a : Word} {body body' : State → Result} (hstack : s'.stack = s.stack)
    (hparams : s'.params = s.params) (hbody : ∀ l, body' (s'.setStack l) = mapNext g (body (s.setStack l))) :
    push s' a body' = mapNext g (push s a body) := by
  unfold push State.sp
  rw [hstack, hparams]
  split
  · rfl
  · exact hbody _

theorem pop_mapNext {body body' : Word → State → Result} (hstack : s'.stack = s.stack)
    (hbody : ∀ a l, body' a (s'.setStack l) = mapNext g (body a (s.setStack l))) :
    pop s' body' = mapNext g (pop s body) := by
  unfold pop
  rw [hstack]
  split
  · rfl
  · exact hbody _ _

theorem withKeyLine_mapNext {k : Byte} {body body' : Bool → Result} (hline : s'.keyLine k = s.keyLine k)
    (hbody : ∀ down, body' down = mapNext g (body down)) :
    withKeyLine s' k body' = mapNext g (withKeyLine s k body) := by
  unfold withKeyLine
  rw [hline]
  split
  · rfl
  · exact hbody _

end MapNext

/-! ### The random input (rules R37, R133, R173) -/

/-- The state with another random input: the bytes queued and the count of free draws. -/
def State.withRandomInput (queue : List Byte) (draws : Nat) (s : State) : State :=
  { s with randQueue := queue, draws := draws }

theorem State.skipIf_withRandomInput (queue : List Byte) (draws : Nat) (s : State) (taken : Bool) :
    (s.withRandomInput queue draws).skipIf taken = (s.skipIf taken).withRandomInput queue draws := by
  cases taken <;> rfl

theorem exec_ldRegKey_withRandomInput (x : Reg) (queue : List Byte) (draws : Nat) (s : State) :
    exec (.ldRegKey x) (s.withRandomInput queue draws) =
      mapNext (State.withRandomInput queue draws) (exec (.ldRegKey x) s) := by
  have hkey : (s.withRandomInput queue draws).selectedKey = s.selectedKey := rfl
  simp only [exec, execLdRegKey, hkey]
  cases s.selectedKey <;> rfl

/-- Every instruction but CXNN goes through as before with another random input in place: its meaning reads nothing of
it, and each shared operation carries it along. -/
theorem exec_withRandomInput {i : Instr} (hrnd : ∀ x nn, i ≠ .rnd x nn) (queue : List Byte) (draws : Nat) (s : State) :
    exec i (s.withRandomInput queue draws) = mapNext (State.withRandomInput queue draws) (exec i s) := by
  cases i with
  | rnd x nn => exact absurd rfl (hrnd x nn)
  | ret =>
    rw [exec_ret, exec_ret]
    exact pop_mapNext rfl fun _ _ => rfl
  | call nnn =>
    rw [exec_call, exec_call]
    exact push_mapNext rfl rfl fun _ => rfl
  | drw | ldBcd | storeRegs | loadRegs => exact checkAccess_mapNext rfl
  | seImm | sneImm | seReg | sneReg => exact congrArg Host.Outcome.next (s.skipIf_withRandomInput queue draws _)
  | skp | sknp =>
    exact withKeyLine_mapNext rfl fun _ => congrArg Host.Outcome.next (s.skipIf_withRandomInput queue draws _)
  | ldRegKey x => exact exec_ldRegKey_withRandomInput x queue draws s
  | _ => rfl

theorem of_randomInput_mem_mayChange {i : Instr} (h : Part.randomInput ∈ mayChange i) : ∃ x nn, i = .rnd x nn := by
  cases i with
  | rnd x nn => exact ⟨x, nn, rfl⟩
  | _ => simp at h

/-- Settles O58: no byte is taken, by the frame of the instruction; the outcome is the same, by
`exec_withRandomInput`. -/
theorem randomByteIsReadByRndOnly : Obligations.RandomByteIsReadByRndOnly := by
  intro i s queue draws hrnd
  have hsame := exec_withRandomInput hrnd queue draws s
  refine ⟨fun t hexec => ?_, fun f hexec => ?_⟩ <;> rw [hexec] at hsame
  · have hkept : Part.randomInput ∉ mayChange i := fun hmem =>
      let ⟨x, nn, e⟩ := of_randomInput_mem_mayChange hmem
      hrnd x nn e
    obtain ⟨hqueue, hdraws⟩ := (exec_frame hexec).randomInput hkept
    exact ⟨hqueue, hdraws, hsame⟩
  · exact hsame

end Sys2Proof.Machine
end

section
/-! PROOFS of the family 41_control_transfer: CALL followed by RET (O22), and the two jumps (O19, O23). -/
namespace Sys2Proof.Machine

/-! ### CALL and RET (rules R27, R28, R150, R152) -/

/-- A CALL that completes has pushed its return address. -/
theorem exec_call_stack {nnn : BitVec 12} {s t : State} (h : exec (.call nnn) s = .next t) :
    t.stack = s.stack ++ [s.pc + 2] := by
  have hanswers : Answers (fun t => t.stack = s.stack ++ [s.pc + 2]) (exec (.call nnn) s) := by
    rw [exec_call]
    exact push_answers fun _ => answers_next rfl
  exact hanswers.of_next h

theorem exec_ret_of_stack_concat {s : State} {rest : List Word} {a : Word} (h : s.stack = rest ++ [a]) :
    exec .ret s = .next ((s.setStack rest).setPc a) := by
  rw [exec_ret, pop_concat h]

/-- Settles O22: RET pops the entry that CALL pushed onto the stack it found. -/
theorem callThenReturnRestoresPcAndStack : Obligations.CallThenReturnRestoresPcAndStack := by
  intro s t u nnn hcall hsame
  have hstack : u.stack = s.stack ++ [s.pc + 2] := hsame.trans (exec_call_stack hcall)
  exact ⟨_, exec_ret_of_stack_concat hstack, rfl, rfl⟩

/-! ### Jumps (rules R151, R153) -/

theorem exec_jp (nnn : BitVec 12) (s : State) : exec (.jp nnn) s = .next (s.setPc (addressOf nnn)) := rfl

theorem exec_jpV0 (nnn : BitVec 12) (s : State) :
    exec (.jpV0 nnn) s = .next (s.setPc (addressOf nnn + s.reg16 0)) := rfl

theorem State.setPc_onlyPcChanges (s : State) (w : Word) : OnlyPcChanges s (s.setPc w) :=
  (FrameExcept.refl _ _ s).setPc w

/-- Settles O19: the target is NNN as an address. -/
theorem jumpSetsPc : Obligations.JumpSetsPc := fun nnn =>
  ⟨decodeWord_encode (i := .jp nnn) rfl, fun s =>
    ⟨_, exec_jp nnn s, addressOf_toNat nnn, s.setPc_onlyPcChanges _⟩⟩

/-- Settles O23: NNN has 12 bits and V0 has 8, so their sum as words does not wrap. -/
theorem jumpIndexedAddsV0 : Obligations.JumpIndexedAddsV0 := by
  refine fun nnn => ⟨decodeWord_encode (i := .jpV0 nnn) rfl, fun s => ?_⟩
  have hsum : (addressOf nnn + s.reg16 0).toNat = nnn.toNat + (s.reg 0).toNat := addressOf_add_reg16_toNat nnn s 0
  have hbound : (addressOf nnn + s.reg16 0).toNat ≤ 0x10FE := by omega
  exact ⟨_, exec_jpV0 nnn s, hsum, hbound, s.setPc_onlyPcChanges _⟩

end Sys2Proof.Machine
end

section
/-! PROOFS of the family 42_skip: the skips on an immediate (O24) and on two registers (O25). -/
namespace Sys2Proof.Machine

/-! ### A comparison of two bytes decides the skip (rules R160 to R163) -/

/-- A pair of instructions that skip on equality and on inequality of the same two bytes. -/
theorem exec_skips_of_comparison {i j : Instr} {s : State} {a b : Byte}
    (hse : exec i s = .next (s.skipIf (a == b))) (hsne : exec j s = .next (s.skipIf (a != b))) :
    (∃ t, exec i s = .next t ∧ t.pc = (if a = b then s.pc + 4 else s.pc + 2) ∧ OnlyPcChanges s t) ∧
    (∃ t, exec j s = .next t ∧ t.pc = (if a = b then s.pc + 2 else s.pc + 4) ∧ OnlyPcChanges s t) := by
  constructor
  · exact ⟨_, hse, by simp, s.skipIf_onlyPcChanges _⟩
  · exact ⟨_, hsne, by simp, s.skipIf_onlyPcChanges _⟩

theorem exec_seImm (x : Reg) (nn : Byte) (s : State) : exec (.seImm x nn) s = .next (s.skipIf (s.reg x == nn)) := rfl

theorem exec_sneImm (x : Reg) (nn : Byte) (s : State) : exec (.sneImm x nn) s = .next (s.skipIf (s.reg x != nn)) := rfl

theorem exec_seReg (x y : Reg) (s : State) : exec (.seReg x y) s = .next (s.skipIf (s.reg x == s.reg y)) := rfl

theorem exec_sneReg (x y : Reg) (s : State) : exec (.sneReg x y) s = .next (s.skipIf (s.reg x != s.reg y)) := rfl

/-- Settles O24: the two bytes compared are V[X] and NN. -/
theorem skipsOnAnImmediateCompareOneRegister : Obligations.SkipsOnAnImmediateCompareOneRegister := fun x nn =>
  ⟨decodeWord_encode (i := .seImm x nn) rfl, decodeWord_encode (i := .sneImm x nn) rfl, fun s =>
    exec_skips_of_comparison (exec_seImm x nn s) (exec_sneImm x nn s)⟩

/-! ### 5XYN and 9XYN decode with N = 0 only (rules R97, R162, R163) -/

theorem decodeNibble0_formatXYN (op : BitVec 4) (x y : Reg) (n : BitVec 4) (i : Instr) :
    decodeNibble0 (formatXYN op x y n) i = if n = 0 then some i else none := by
  rw [decodeNibble0, fieldN_formatXYN]; rfl

theorem decodeWord_formatXYN_5 (x y : Reg) (n : BitVec 4) :
    decodeWord (formatXYN 0x5 x y n) = if n = 0 then some (.seReg x y) else none := by
  simp [decodeWord, decodeNibble0_formatXYN]

theorem decodeWord_formatXYN_9 (x y : Reg) (n : BitVec 4) :
    decodeWord (formatXYN 0x9 x y n) = if n = 0 then some (.sneReg x y) else none := by
  simp [decodeWord, decodeNibble0_formatXYN]

/-- Settles O25: the two bytes compared are V[X] and V[Y], and the decoder asks for N = 0. -/
theorem skipsOnTwoRegistersCompareThem : Obligations.SkipsOnTwoRegistersCompareThem := fun x y =>
  ⟨decodeWord_formatXYN_5 x y, decodeWord_formatXYN_9 x y, fun s =>
    exec_skips_of_comparison (exec_seReg x y s) (exec_sneReg x y s)⟩

end Sys2Proof.Machine
end

section
/-! PROOFS of the family 43_const_and_random: the byte written (O26) and added (O27) to a register, and the address
written to I (O28). CXNN (O29) stands with 10_state. -/
namespace Sys2Proof.Machine

/-! ### One register written (rules R170, R171) -/

/-- An instruction that writes one byte to one register and goes on to the next opcode. -/
theorem exec_writes_register {i : Instr} {s : State} {x : Reg} {b : Byte}
    (h : exec i s = .next (s.setReg x b).advance) :
    ∃ t, exec i s = .next t ∧ t.reg x = b ∧ t.pc = s.pc + 2 ∧ FrameExcept (· = x) [] s t :=
  ⟨_, h, s.reg_setReg_same x b, rfl, ((FrameExcept.refl (· = x) _ s).setReg rfl b).advance⟩

theorem exec_ldImm (x : Reg) (nn : Byte) (s : State) : exec (.ldImm x nn) s = .next (s.setReg x nn).advance := rfl

theorem exec_addImm (x : Reg) (nn : Byte) (s : State) :
    exec (.addImm x nn) s = .next (s.setReg x (s.reg x + nn)).advance := rfl

/-- Settles O26: the byte written is NN. -/
theorem loadImmediateWritesTheByte : Obligations.LoadImmediateWritesTheByte := fun x nn =>
  ⟨decodeWord_encode (i := .ldImm x nn) rfl, fun s => exec_writes_register (exec_ldImm x nn s)⟩

/-- Settles O27: the byte written is the sum of V[X] and NN as bytes, and no flag is set on the way. -/
theorem addImmediateWrapsAndWritesNoFlag : Obligations.AddImmediateWrapsAndWritesNoFlag := by
  refine fun x nn => ⟨decodeWord_encode (i := .addImm x nn) rfl, fun s => ?_⟩
  obtain ⟨t, hexec, hreg, hpc, hframe⟩ := exec_writes_register (exec_addImm x nn s)
  have hsum : (t.reg x).toNat = ((s.reg x).toNat + nn.toNat) % 256 := by rw [hreg, BitVec.toNat_add]
  exact ⟨t, hexec, hsum, hpc, hframe⟩

/-! ### I written (rule R172) -/

theorem exec_ldI (nnn : BitVec 12) (s : State) : exec (.ldI nnn) s = .next (s.setI (addressOf nnn)).advance := rfl

/-- Settles O28: the word written to I is NNN as an address. -/
theorem loadIndexWritesTheAddress : Obligations.LoadIndexWritesTheAddress := fun nnn =>
  ⟨decodeWord_encode (i := .ldI nnn) rfl, fun s =>
    ⟨_, exec_ldI nnn s, addressOf_toNat nnn, rfl, ((FrameExcept.refl _ _ s).setI _).advance⟩⟩

end Sys2Proof.Machine
end

section
/-! PROOFS of the family 44_alu: the copy and the bitwise operations (O30), and the operations that write a flag: add and
subtract (O31), and the shifts (O32). -/
namespace Sys2Proof.Machine

/-! ### Copy and bitwise operations (rules R181 to R184) -/

theorem exec_ldReg (x y : Reg) (s : State) : exec (.ldReg x y) s = .next (s.setReg x (s.reg y)).advance := rfl

theorem exec_orReg (x y : Reg) (s : State) :
    exec (.orReg x y) s = .next (s.setReg x (s.reg x ||| s.reg y)).advance := rfl

theorem exec_andReg (x y : Reg) (s : State) :
    exec (.andReg x y) s = .next (s.setReg x (s.reg x &&& s.reg y)).advance := rfl

theorem exec_xorReg (x y : Reg) (s : State) :
    exec (.xorReg x y) s = .next (s.setReg x (s.reg x ^^^ s.reg y)).advance := rfl

/-- `exec_writes_register` for a byte given bit by bit. -/
theorem exec_writes_bits {i : Instr} {s : State} {x : Reg} {b : Byte} {bit : Nat → Bool}
    (h : exec i s = .next (s.setReg x b).advance) (hbits : ∀ k, b.getLsbD k = bit k) :
    ∃ t, exec i s = .next t ∧ (∀ k < 8, (t.reg x).getLsbD k = bit k) ∧ t.pc = s.pc + 2 ∧
      FrameExcept (· = x) [] s t := by
  obtain ⟨t, hexec, hreg, hpc, hframe⟩ := exec_writes_register h
  exact ⟨t, hexec, fun k _ => hreg ▸ hbits k, hpc, hframe⟩

/-- Settles O30: each writes one byte to V[X], and the bits of the three combined bytes are the combined bits. -/
theorem copyAndBitwiseLeaveVFAlone : Obligations.CopyAndBitwiseLeaveVFAlone := fun x y =>
  ⟨decodeWord_encode (i := .ldReg x y) rfl, decodeWord_encode (i := .orReg x y) rfl,
    decodeWord_encode (i := .andReg x y) rfl, decodeWord_encode (i := .xorReg x y) rfl, fun s =>
    ⟨exec_writes_register (exec_ldReg x y s),
      exec_writes_bits (exec_orReg x y s) fun _ => BitVec.getLsbD_or,
      exec_writes_bits (exec_andReg x y s) fun _ => BitVec.getLsbD_and,
      exec_writes_bits (exec_xorReg x y s) fun _ => BitVec.getLsbD_xor⟩⟩

/-! ### The flags and results as numbers (rules R33, R190, R191) -/

theorem flagByte_toNat (f : Bool) : (flagByte f).toNat = f.toNat := by cases f <;> rfl

theorem flagByte_decide_toNat (p : Prop) [Decidable p] : (flagByte (decide p)).toNat = if p then 1 else 0 := by
  rw [flagByte_toNat, Bool.toNat, Bool.cond_decide]

theorem carryFlag_toNat (a b : Byte) : (flagByte (carryFlag a b)).toNat = if 255 < a.toNat + b.toNat then 1 else 0 :=
  flagByte_decide_toNat _

theorem noBorrowFlag_toNat (a b : Byte) : (flagByte (noBorrowFlag a b)).toNat = if b.toNat ≤ a.toNat then 1 else 0 :=
  flagByte_decide_toNat _

theorem lowBitFlag_toNat (a : Byte) : (flagByte (lowBitFlag a)).toNat = a.toNat % 2 := by
  rw [flagByte_toNat, lowBitFlag, BitVec.getLsbD, Nat.toNat_testBit, Nat.pow_zero, Nat.div_one]

/-- No reduction modulo 2 is left: bit 7 is the top bit of a byte. -/
theorem highBitFlag_toNat (a : Byte) : (flagByte (highBitFlag a)).toNat = a.toNat / 128 := by
  rw [flagByte_toNat, highBitFlag, BitVec.getLsbD, Nat.toNat_testBit]
  have := a.isLt
  omega

theorem sub_toNat_eq_ite (a b : Byte) :
    (a - b).toNat = if b.toNat ≤ a.toNat then a.toNat - b.toNat else a.toNat + 256 - b.toNat := by
  rw [BitVec.toNat_sub]
  have := a.isLt
  have := b.isLt
  split <;> omega

theorem shiftRight_one_toNat (a : Byte) : (a >>> 1).toNat = a.toNat / 2 := by
  rw [BitVec.toNat_ushiftRight, Nat.shiftRight_one]

theorem shiftLeft_one_toNat (a : Byte) : (a <<< 1).toNat = 2 * a.toNat % 256 := by
  rw [BitVec.toNat_shiftLeft, Nat.shiftLeft_eq, Nat.pow_one, Nat.mul_comm]

/-! ### Flag, then result (rule R180) -/

theorem exec_addReg (x y : Reg) (s : State) : exec (.addReg x y) s =
    .next (s.setFlagThenReg (carryFlag (s.reg x) (s.reg y)) x (s.reg x + s.reg y)).advance := rfl

theorem exec_subReg (x y : Reg) (s : State) : exec (.subReg x y) s =
    .next (s.setFlagThenReg (noBorrowFlag (s.reg x) (s.reg y)) x (s.reg x - s.reg y)).advance := rfl

theorem exec_subn (x y : Reg) (s : State) : exec (.subn x y) s =
    .next (s.setFlagThenReg (noBorrowFlag (s.reg y) (s.reg x)) x (s.reg y - s.reg x)).advance := rfl

theorem exec_shr (x y : Reg) (s : State) : exec (.shr x y) s =
    .next (s.setFlagThenReg (lowBitFlag (s.reg x)) x (s.reg x >>> 1)).advance := rfl

theorem exec_shl (x y : Reg) (s : State) : exec (.shl x y) s =
    .next (s.setFlagThenReg (highBitFlag (s.reg x)) x (s.reg x <<< 1)).advance := rfl

/-- The result is written last, so V[X] holds it even where X is 15; VF keeps the flag where X is not. -/
theorem flaggedResult_of_exec {i : Instr} {s : State} {x : Reg} {f : Bool} {b : Byte} {result flag : Nat}
    (h : exec i s = .next (s.setFlagThenReg f x b).advance) (hresult : b.toNat = result)
    (hflag : (flagByte f).toNat = flag) : FlaggedResult i x result flag s := by
  have hregs (r : Reg) : (s.setFlagThenReg f x b).advance.reg r =
      if r = x then b else if r = regVF then flagByte f else s.reg r := s.reg_setFlagThenReg f x r b
  have hframe : FrameExcept (fun r => r = x ∨ r = regVF) [] s (s.setFlagThenReg f x b).advance :=
    ((FrameExcept.refl _ _ s).setFlagThenReg (.inr rfl) (.inl rfl) f b).advance
  refine ⟨_, h, ?_, fun hx => ?_, rfl, hframe⟩
  · rw [hregs, if_pos rfl, hresult]
  · rw [hregs, if_neg hx.symm, if_pos rfl, hflag]

/-- Settles O31: sum and differences of two bytes, with the carry and the absence of a borrow as flags. -/
theorem addAndSubtractWriteResultAndFlag : Obligations.AddAndSubtractWriteResultAndFlag := by
  refine fun x y => ⟨decodeWord_encode (i := .addReg x y) rfl, decodeWord_encode (i := .subReg x y) rfl,
    decodeWord_encode (i := .subn x y) rfl, ?_⟩
  rintro s _ _ rfl rfl
  exact ⟨flaggedResult_of_exec (exec_addReg x y s) (BitVec.toNat_add ..) (carryFlag_toNat ..),
    flaggedResult_of_exec (exec_subReg x y s) (sub_toNat_eq_ite ..) (noBorrowFlag_toNat ..),
    flaggedResult_of_exec (exec_subn x y s) (sub_toNat_eq_ite ..) (noBorrowFlag_toNat ..)⟩

/-- Settles O32: half and double of one byte, with the bit each shift drops as flag; Y occurs in neither. -/
theorem shiftsWriteResultAndDroppedBit : Obligations.ShiftsWriteResultAndDroppedBit := by
  refine fun x y => ⟨decodeWord_encode (i := .shr x y) rfl, decodeWord_encode (i := .shl x y) rfl, ?_⟩
  rintro s _ rfl
  exact ⟨flaggedResult_of_exec (exec_shr x y s) (shiftRight_one_toNat _) (lowBitFlag_toNat _),
    flaggedResult_of_exec (exec_shl x y s) (shiftLeft_one_toNat _) (highBitFlag_toNat _)⟩

end Sys2Proof.Machine
end

section
/-! PROOFS of the family 45_framebuffer: CLS (O17), and DXYN as one XOR of the cells its sprite lands on (O33), which a
second draw undoes (O35). -/
namespace Sys2Proof.Machine

/-! ### CLS (rules R200, R202) -/

theorem exec_cls (s : State) : exec .cls s = .next (s.setFb Framebuffer.clear).advance := rfl

/-- Settles O17: `exec_cls`, and no cell of the cleared framebuffer is on. -/
theorem clearScreenTurnsEveryCellOff : Obligations.ClearScreenTurnsEveryCellOff :=
  ⟨decodeWord_encode (i := .cls) rfl, fun s => ⟨_, exec_cls s, Framebuffer.cell_clear, rfl,
    ((FrameExcept.refl _ _ s).setFb _).advance⟩⟩

/-! ### The cells DXYN draws (rules R201, R203, R204) -/

/-- The cells DXYN draws from `s`, one for each bit of 1 of its sprite, in the order they are drawn. -/
def State.drawnCells (s : State) (x y : Reg) (n : Nat) : List (Nat × Nat) :=
  spriteCells (s.reg x).toNat (s.reg y).toNat (s.mem.readBytes s.base n)

theorem State.drawnCells_pairwise (s : State) (x y : Reg) {n : Nat} (hn : n < 16) :
    (s.drawnCells x y n).Pairwise fun p q => ¬ sameCell p q :=
  spriteCells_pairwise _ _ _ (by rw [Memory.readBytes_length]; omega)

theorem State.mem_drawnCells {s : State} {x y : Reg} {n : Nat} {p : Nat × Nat} :
    p ∈ s.drawnCells x y n ↔ ∃ r < n, ∃ c < 8, (s.byteAt (s.base + r)).getLsbD (7 - c) = true ∧
      p = ((s.reg x).toNat + c, (s.reg y).toNat + r) := by
  simp only [State.drawnCells, mem_spriteCells, Memory.readBytes_getElem, Memory.readBytes_length, exists_prop,
    State.byteAt]

/-- The cells drawn are those the sprite hits, once both coordinates are reduced (rule R201). -/
theorem spriteHits_iff_drawn {s : State} {x y : Reg} {n cx cy : Nat} :
    SpriteHits s x y n cx cy ↔ ∃ p ∈ s.drawnCells x y n, cx = p.1 % 64 ∧ cy = p.2 % 32 := by
  constructor
  · rintro ⟨r, hr, c, hc, hbit, hx, hy⟩
    exact ⟨_, State.mem_drawnCells.2 ⟨r, hr, c, hc, hbit, rfl⟩, hx, hy⟩
  · rintro ⟨p, hp, hx, hy⟩
    obtain ⟨r, hr, c, hc, hbit, rfl⟩ := State.mem_drawnCells.1 hp
    exact ⟨r, hr, c, hc, hbit, hx, hy⟩

theorem spriteHits_iff_sameCell {s : State} {x y : Reg} {n cx cy : Nat} (hx : cx < 64) (hy : cy < 32) :
    SpriteHits s x y n cx cy ↔ ∃ p ∈ s.drawnCells x y n, sameCell (cx, cy) p := by
  simp only [spriteHits_iff_drawn, sameCell, Nat.mod_eq_of_lt hx, Nat.mod_eq_of_lt hy]

theorem Framebuffer.cell_mod (f : Framebuffer) (x y : Nat) : f.cell (x % 64) (y % 32) = f.cell x y := by
  simp [Framebuffer.cell]

/-- A drawn cell was on exactly when a cell the sprite hits was: the collision of rule R205. -/
theorem exists_drawn_on_iff {s : State} {x y : Reg} {n : Nat} :
    (∃ p ∈ s.drawnCells x y n, s.fb.cell p.1 p.2 = true) ↔
      ∃ cx < 64, ∃ cy < 32, SpriteHits s x y n cx cy ∧ s.pixel cx cy = true := by
  constructor
  · rintro ⟨p, hp, hon⟩
    exact ⟨p.1 % 64, Nat.mod_lt _ (by decide), p.2 % 32, Nat.mod_lt _ (by decide),
      spriteHits_iff_drawn.2 ⟨p, hp, rfl, rfl⟩, (s.fb.cell_mod p.1 p.2).trans hon⟩
  · rintro ⟨_, -, _, -, hhit, hon⟩
    obtain ⟨p, hp, rfl, rfl⟩ := spriteHits_iff_drawn.1 hhit
    exact ⟨p, hp, (s.fb.cell_mod p.1 p.2).symm.trans hon⟩

/-! ### DXYN (rules R204 to R206) -/

/-- The state DXYN leaves when its rows lie in memory. -/
def State.afterDrw (s : State) (x y : Reg) (n : Nat) : State :=
  ((s.setFb (drawCells s.fb false (s.drawnCells x y n)).1).setFlag
    (drawCells s.fb false (s.drawnCells x y n)).2).advance

theorem exec_drw {x y : Reg} {n : Nat} {s : State} (h : n = 0 ∨ s.base + n ≤ 4096) :
    exec (.drw x y n) s = .next (s.afterDrw x y n) :=
  checkAccess_ok h _

theorem exec_drw_next {x y : Reg} {n : Nat} {s t : State} (h : exec (.drw x y n) s = .next t) :
    (n = 0 ∨ s.base + n ≤ 4096) ∧ t = s.afterDrw x y n := by
  obtain ⟨hrange, e⟩ := checkAccess_next h
  cases e
  exact ⟨hrange, rfl⟩

theorem State.afterDrw_fb (s : State) (x y : Reg) (n : Nat) :
    (s.afterDrw x y n).fb = (drawCells s.fb false (s.drawnCells x y n)).1 := rfl

theorem State.afterDrw_regVF (s : State) (x y : Reg) (n : Nat) :
    (s.afterDrw x y n).reg regVF = flagByte (drawCells s.fb false (s.drawnCells x y n)).2 :=
  (State.reg_setFlag ..).trans (if_pos rfl)

theorem State.afterDrw_frame (s : State) (x y : Reg) (n : Nat) :
    FrameExcept (· = regVF) [.screen] s (s.afterDrw x y n) :=
  (((FrameExcept.refl (· = regVF) [.screen] s).setFb _).setFlag rfl _).advance

/-- Settles O33: at most 15 rows, so no cell is drawn twice, and each cell drawn is toggled once. -/
theorem drawTogglesTheSpriteCells : Obligations.DrawTogglesTheSpriteCells := by
  intro x y n hn s hrows
  have hpair := s.drawnCells_pairwise x y hn
  have hcollision := (collision_drawCells_iff hpair s.fb).trans exists_drawn_on_iff
  refine ⟨s.afterDrw x y n, exec_drw (by omega), fun cx hcx cy hcy => ⟨fun hhit => ?_, fun hmiss => ?_⟩,
    fun hon => ?_, fun hoff => ?_, rfl, s.afterDrw_frame x y n⟩
  · exact cell_drawCells_hit hpair _ _ ((spriteHits_iff_sameCell hcx hcy).1 hhit)
  · exact cell_drawCells_miss hpair _ _ (mt (spriteHits_iff_sameCell hcx hcy).2 hmiss)
  · rw [State.afterDrw_regVF, hcollision.2 hon]
    rfl
  · rw [State.afterDrw_regVF, Bool.eq_false_iff.2 (mt hcollision.1 hoff)]
    rfl

/-- Cells that are pairwise different, drawn twice, are back as they were: XOR undoes itself (rule R206). -/
theorem drawCells_drawCells {ps : List (Nat × Nat)} (h : ps.Pairwise fun p q => ¬ sameCell p q) (f : Framebuffer)
    (c d : Bool) : (drawCells (drawCells f c ps).1 d ps).1 = f :=
  Framebuffer.ext_cell fun u _ v _ => by
    rw [cell_drawCells h, cell_drawCells h, Bool.xor_assoc, Bool.xor_self, Bool.xor_false]

theorem State.drawnCells_congr {s u : State} {x y : Reg} (n : Nat) (hi : u.i = s.i)
    (hbytes : ∀ a, u.byteAt a = s.byteAt a) (hx : u.reg x = s.reg x) (hy : u.reg y = s.reg y) :
    u.drawnCells x y n = s.drawnCells x y n := by
  rw [State.drawnCells, State.drawnCells, State.base, State.base, hx, hy, hi, Memory.readBytes_congr hbytes]

/-- Settles O35: the second draw passes the same bound check and draws the same cells. -/
theorem drawingTwiceRestoresTheScreen : Obligations.DrawingTwiceRestoresTheScreen := by
  intro x y n hn s t u hfirst hfb hi hbytes hx hy
  obtain ⟨hrange, rfl⟩ := exec_drw_next hfirst
  have hbase : u.base = s.base := congrArg BitVec.toNat hi
  refine ⟨u.afterDrw x y n, exec_drw (hbase ▸ hrange), ?_⟩
  rw [State.afterDrw_fb, State.drawnCells_congr n hi hbytes hx hy, hfb, State.afterDrw_fb]
  exact drawCells_drawCells (s.drawnCells_pairwise x y hn) s.fb false false

end Sys2Proof.Machine
end

section
/-! PROOFS of the family 46_keypad: the wait for a key (O38), which instructions read the key lines (O57), the key line
the host drives (O15), and the skips on a key line (O36). -/
namespace Sys2Proof.Machine

/-! ### FX0A (rules R224, R226) -/

theorem exec_ldRegKey_of_none {s : State} (x : Reg) (h : s.selectedKey = none) :
    exec (.ldRegKey x) s = .next (s.setPc s.pc) := by
  simp only [exec, execLdRegKey, h]

theorem exec_ldRegKey_of_some {s : State} {k : Fin 16} (x : Reg) (h : s.selectedKey = some k) :
    exec (.ldRegKey x) s = .next (s.setReg x (BitVec.ofNat 8 k.val)).advance := by
  simp only [exec, execLdRegKey, h]

theorem State.exists_selectedKey {s : State} (h : ∃ k : Fin 16, s.keys[k.val] = true) :
    ∃ k, s.selectedKey = some k := by
  refine Option.ne_none_iff_exists'.1 fun hnone => ?_
  obtain ⟨k, hdown⟩ := h
  have hup : s.keys[k.val] = false := State.selectedKey_eq_none.1 hnone k
  exact Bool.false_ne_true (hup.symm.trans hdown)

/-- Under `KEY_SELECT` = lowest every key below the one captured is up (decision D6). -/
theorem State.selectedKey_up_below {s : State} {k : Fin 16} (h : s.selectedKey = some k)
    (hlowest : s.params.keySelect = .lowest) : ∀ j : Fin 16, j < k → s.keys[j.val] = false :=
  (lowestDown_eq_some ((State.selectedKey_lowest hlowest).symm.trans h)).2

/-- Settles O38, by whether `State.selectedKey` names a key: it does exactly when one is down. -/
theorem keyWaitRefetchesOrCapturesAKey : Obligations.KeyWaitRefetchesOrCapturesAKey := by
  refine fun x => ⟨decodeWord_encode (i := .ldRegKey x) rfl, fun s hup => ?_, fun s hdown => ?_⟩
  · have hwait := exec_ldRegKey_of_none x (State.selectedKey_eq_none.2 hup)
    exact ⟨_, hwait, rfl, s.setPc_onlyPcChanges s.pc⟩
  · obtain ⟨k, hk⟩ := State.exists_selectedKey hdown
    obtain ⟨t, hexec, hreg, hpc, hframe⟩ := exec_writes_register (exec_ldRegKey_of_some x hk)
    have hnumber : (t.reg x).toNat = k.val := by
      rw [hreg, BitVec.toNat_ofNat]
      omega
    exact ⟨t, k, hexec, State.selectedKey_down hk, hnumber, State.selectedKey_up_below hk, hpc, hframe⟩

/-! ### Other key lines in place (rules R133, R220) -/

theorem State.skipIf_setKeys (keys : Vector Bool 16) (s : State) (taken : Bool) :
    (s.setKeys keys).skipIf taken = (s.skipIf taken).setKeys keys := by
  cases taken <;> rfl

theorem State.afterDraw_setKeys (keys : Vector Bool 16) (s : State) :
    (s.setKeys keys).afterDraw = s.afterDraw.setKeys keys := by
  unfold State.afterDraw
  rw [State.setKeys_randQueue]
  split <;> rfl

/-- CXNN reads the random input, which the key lines are no part of. -/
theorem exec_rnd_setKeys (x : Reg) (nn : Byte) (keys : Vector Bool 16) (s : State) :
    exec (.rnd x nn) (s.setKeys keys) = mapNext (State.setKeys · keys) (exec (.rnd x nn) s) := by
  simp only [exec, execRnd, State.afterDraw_setKeys]
  rfl

/-- Every instruction but EX9E, EXA1 and FX0A goes through as before with other key lines in place: its meaning reads
none of them, and each shared operation carries them along. -/
theorem exec_setKeys {i : Instr} (hskp : ∀ x, i ≠ .skp x) (hsknp : ∀ x, i ≠ .sknp x) (hkey : ∀ x, i ≠ .ldRegKey x)
    (keys : Vector Bool 16) (s : State) :
    exec i (s.setKeys keys) = mapNext (State.setKeys · keys) (exec i s) := by
  cases i with
  | skp x => exact absurd rfl (hskp x)
  | sknp x => exact absurd rfl (hsknp x)
  | ldRegKey x => exact absurd rfl (hkey x)
  | ret =>
    rw [exec_ret, exec_ret]
    exact pop_mapNext rfl fun _ _ => rfl
  | call nnn =>
    rw [exec_call, exec_call]
    exact push_mapNext rfl rfl fun _ => rfl
  | drw | ldBcd | storeRegs | loadRegs => exact checkAccess_mapNext rfl
  | seImm | sneImm | seReg | sneReg => exact congrArg Host.Outcome.next (s.skipIf_setKeys keys _)
  | rnd x nn => exact exec_rnd_setKeys x nn keys s
  | _ => rfl

/-- Settles O57: the key lines stay, by the frame of the instruction; the outcome is the same, by `exec_setKeys`. -/
theorem keysAreReadByKeyInstructionsOnly : Obligations.KeysAreReadByKeyInstructionsOnly := by
  intro i s keys hskp hsknp hkey
  have hsame := exec_setKeys hskp hsknp hkey keys s
  refine ⟨fun t hexec => ?_, fun f hexec => ?_⟩ <;> rw [hexec] at hsame
  · exact ⟨(exec_frame hexec).keys, hsame⟩
  · exact hsame

/-! ### The host's moves on a key line (rule R221) -/

theorem step_press_or_release {s : State} {k : Nat} {down : Bool}
    (h : s.nextEvent = if down then .press k else .release k) : step s = .next (hostSetKey k down s.eventTaken) := by
  rw [step, h]
  cases down <;> rfl

theorem hostSetKey_keys_getElem (k : Nat) (down : Bool) (s : State) (j : Fin 16) :
    (hostSetKey k down s).keys[j.val] = if j.val = k then down else s.keys[j.val] := by
  simp only [hostSetKey, State.setKeys_keys, Vector.getElem_setIfInBounds, eq_comm (a := k)]

/-- Settles O15: `hostSetKey` writes the key lines only, and of them line `k` where there is one. -/
theorem hostDrivesOneKeyLine : Obligations.HostDrivesOneKeyLine := fun s k down hnext =>
  ⟨_, step_press_or_release hnext, rfl, hostSetKey_keys_getElem k down s.eventTaken⟩

/-! ### EX9E and EXA1 (rules R222, R223, R225) -/

theorem State.keyLine_of_toNat_eq {s : State} {b : Byte} {k : Fin 16} (h : b.toNat = k.val) :
    s.keyLine b = some s.keys[k.val] := by
  rw [State.keyLine_inRange (h ▸ k.isLt)]
  simp only [h]

/-- Settles O36: the line V[X] names is what the skips go by; above 15 there is none under the policy fault. -/
theorem skipsOnKeysReadTheNamedLine : Obligations.SkipsOnKeysReadTheNamedLine := by
  refine fun x => ⟨decodeWord_encode (i := .skp x) rfl, decodeWord_encode (i := .sknp x) rfl,
    fun s k hk => exec_keySkips_of_keyLine (State.keyLine_of_toNat_eq hk), fun s habove hpolicy => ?_⟩
  have hnone : s.keyLine (s.reg x) = none := State.keyLine_none.2 ⟨habove, hpolicy⟩
  exact ⟨withKeyLine_none hnone _, withKeyLine_none hnone _, rfl⟩

end Sys2Proof.Machine
end

section
/-! PROOFS of the family 47_timer: the instructions that read and write the timers (O39). -/
namespace Sys2Proof.Machine

/-! ### FX07, FX15, FX18 (rules R230 to R232) -/

theorem exec_ldRegDt (x : Reg) (s : State) : exec (.ldRegDt x) s = .next (s.setReg x s.dt).advance := rfl

theorem exec_ldDtReg (x : Reg) (s : State) : exec (.ldDtReg x) s = .next (s.setDt (s.reg x)).advance := rfl

theorem exec_ldStReg (x : Reg) (s : State) : exec (.ldStReg x) s = .next (s.setSt (s.reg x)).advance := rfl

/-- Settles O39: FX07 writes one register, FX15 and FX18 one timer each. -/
theorem timerInstructionsMoveTheTimers : Obligations.TimerInstructionsMoveTheTimers := fun x =>
  ⟨decodeWord_encode (i := .ldRegDt x) rfl, decodeWord_encode (i := .ldDtReg x) rfl,
    decodeWord_encode (i := .ldStReg x) rfl, fun s =>
    ⟨exec_writes_register (exec_ldRegDt x s),
      ⟨_, exec_ldDtReg x s, rfl, rfl, ((FrameExcept.refl _ _ s).setDt _).advance⟩,
      ⟨_, exec_ldStReg x s, rfl, rfl, ((FrameExcept.refl _ _ s).setSt _).advance⟩⟩⟩

end Sys2Proof.Machine
end

section
/-! PROOFS of the family 48_index_memory: I as a sum (O40) and as a glyph address (O41), the decimal digits (O42), and
the registers stored (O43), loaded (O44) and loaded back (O45). -/
namespace Sys2Proof.Machine

/-! ### FX1E and FX29 (rules R240, R241) -/

theorem exec_addI (x : Reg) (s : State) :
    exec (.addI x) s = .next ((s.setI (s.sumI x)).setFlag (indexFlag (s.sumI x))).advance := rfl

theorem exec_ldGlyph (x : Reg) (s : State) :
    exec (.ldGlyph x) s = .next (s.setI (BitVec.ofNat 16 Config.glyphSize * s.reg16 x)).advance := rfl

theorem State.sumI_toNat (s : State) (x : Reg) :
    (s.sumI x).toNat = (s.i.toNat + (s.reg x).toNat) % 65536 := by
  rw [State.sumI, BitVec.toNat_add, State.reg16_toNat]

theorem flagByte_indexFlag (w : Word) : flagByte (indexFlag w) = if 0x0FFF < w.toNat then 1 else 0 := by
  simp only [flagByte, indexFlag, decide_eq_true_eq]

/-- Five times a byte is at most 1275, so the product does not wrap. -/
theorem glyphAddress_toNat (s : State) (x : Reg) :
    (BitVec.ofNat 16 Config.glyphSize * s.reg16 x).toNat = 5 * (s.reg x).toNat := by
  rw [Config.glyphSize, BitVec.toNat_mul, State.reg16_toNat, BitVec.toNat_ofNat]
  have := (s.reg x).isLt
  omega

/-- Settles O40: the sum is read from the old registers, VF included, before the flag of that sum is written. -/
theorem addIndexTestsTheStoredSum : Obligations.AddIndexTestsTheStoredSum := by
  refine fun x => ⟨decodeWord_encode (i := .addI x) rfl, fun s => ⟨_, exec_addI x s, s.sumI_toNat x, ?_, rfl,
    (((FrameExcept.refl (· = regVF) _ s).setI _).setFlag rfl _).advance⟩⟩
  rw [State.advance_reg, State.reg_setFlag, if_pos rfl, flagByte_indexFlag, State.sumI_toNat]

/-- Settles O41: `glyphAddress_toNat`, for every value of V[X]. -/
theorem glyphAddressIsFiveTimesTheDigit : Obligations.GlyphAddressIsFiveTimesTheDigit := fun x =>
  ⟨decodeWord_encode (i := .ldGlyph x) rfl, fun s =>
    ⟨_, exec_ldGlyph x s, glyphAddress_toNat s x, rfl, ((FrameExcept.refl _ _ s).setI _).advance⟩⟩

/-! ### FX33 (rule R242) -/

/-- Beside `bytesKeptOutside_setMem`: inside the run the bytes written are read (rule R65). -/
theorem byteAt_setMem_writeBytes (s : State) (base : Nat) {bs : List Byte} {k : Nat} (hk : k < bs.length) :
    (s.setMem (s.mem.writeBytes base bs)).byteAt (base + k) = bs[k] :=
  Memory.read_writeBytes_inside _ _ _ _ hk

theorem exec_ldBcd {x : Reg} {s : State} (h : s.base + 2 ≤ 4095) :
    exec (.ldBcd x) s = .next (s.setMem (s.mem.writeBytes s.base (decimalDigits (s.reg x)))).advance :=
  checkAccess_ok (by omega) _

theorem exec_ldBcd_fault {x : Reg} {s : State} (h : 4095 < s.base + 2) :
    exec (.ldBcd x) s = .fault (.memoryOutOfBounds (if 4095 < s.base then s.base else 4096)) :=
  checkAccess_fault (by decide) (by omega) _

/-- Settles O42: the run written is the three digits, and the bound check of three bytes asks for I + 2 in memory. -/
theorem storeDecimalWritesThreeDigits : Obligations.StoreDecimalWritesThreeDigits := by
  refine fun x => ⟨decodeWord_encode (i := .ldBcd x) rfl, fun s hrange => ?_, fun s => exec_ldBcd_fault⟩
  have hdigit (k : Nat) (hk : k < 3) := byteAt_setMem_writeBytes s s.base (bs := decimalDigits (s.reg x)) hk
  have hkept := (exec_ldBcd_memory (exec_ldBcd (x := x) hrange)).2
  refine ⟨_, exec_ldBcd hrange, ?_, ?_, ?_, hkept, rfl, ((FrameExcept.refl _ _ s).setMem _).advance⟩
  · exact congrArg BitVec.toNat (hdigit 0 (by decide))
  · exact congrArg BitVec.toNat (hdigit 1 (by decide))
  · exact congrArg BitVec.toNat (hdigit 2 (by decide))

/-! ### FX55 and FX65 (rules R243 to R246) -/

section RegisterMoves

variable {x : Reg} {s : State}

/-- I after the bytes moved is at most 4096, so it does not wrap. -/
theorem State.advancedI_toNat (h : s.base + x.val ≤ 4095) : (s.advancedI x).toNat = s.i.toNat + x.val + 1 := by
  have hbase : s.i.toNat + x.val ≤ 4095 := h
  rw [State.advancedI, BitVec.toNat_add, BitVec.toNat_ofNat, regCount]
  omega

theorem checkAccess_regCount_ok (h : s.base + x.val ≤ 4095) (body : Result) :
    checkAccess s.base (regCount x) body = body :=
  checkAccess_ok (by rw [regCount]; omega) body

theorem checkAccess_regCount_fault (h : 4095 < s.base + x.val) (body : Result) :
    checkAccess s.base (regCount x) body =
      .fault (.memoryOutOfBounds (if 4095 < s.base then s.base else 4096)) :=
  checkAccess_fault (by rw [regCount]; omega) (by rw [regCount]; omega) body

theorem exec_storeRegs (h : s.base + x.val ≤ 4095) : exec (.storeRegs x) s =
    .next ((s.setMem (s.mem.writeBytes s.base (s.lowRegs x))).setI (s.advancedI x)).advance :=
  checkAccess_regCount_ok h _

theorem exec_loadRegs (h : s.base + x.val ≤ 4095) : exec (.loadRegs x) s =
    .next ((s.setV (fillRegs s.v 0 (s.mem.readBytes s.base (regCount x)))).setI (s.advancedI x)).advance :=
  checkAccess_regCount_ok h _

/-- Register k of those loaded gets the k-th byte read. -/
theorem fillRegs_readBytes_getElem (v : Vector Byte 16) (m : Memory) (a : Nat) {k : Reg} (hk : k ≤ x) :
    (fillRegs v 0 (m.readBytes a (regCount x)))[k.val] = m.read (a + k.val) := by
  have hcount : k.val < regCount x := Nat.lt_succ_of_le hk
  rw [fillRegs_getElem, dif_pos ⟨Nat.zero_le _, by rwa [Memory.readBytes_length]⟩, Memory.readBytes_getElem,
    Nat.sub_zero]

/-- The bytes loaded reach no register above X. -/
theorem fillRegs_readBytes_above (v : Vector Byte 16) (m : Memory) (a : Nat) {r : Reg} (hr : ¬ r ≤ x) :
    (fillRegs v 0 (m.readBytes a (regCount x)))[r.val] = v[r.val] :=
  fillRegs_above v _ (by rw [Memory.readBytes_length]; exact Nat.lt_of_not_le hr)

end RegisterMoves

/-- Settles O43: the bytes by `exec_storeRegs_byteAt`, those outside the run by `exec_storeRegs_memory`. -/
theorem storeRegistersWritesAndAdvancesI : Obligations.StoreRegistersWritesAndAdvancesI := by
  refine fun x => ⟨decodeWord_encode (i := .storeRegs x) rfl, fun s hrange => ?_,
    fun s habove => checkAccess_regCount_fault habove _⟩
  have hexec := exec_storeRegs hrange
  exact ⟨_, hexec, fun k => exec_storeRegs_byteAt hexec, (exec_storeRegs_memory hexec).2,
    State.advancedI_toNat hrange, rfl, (((FrameExcept.refl _ _ s).setMem _).setI _).advance⟩

/-- Settles O44: the registers filled are those up to X, from the bytes read at I. -/
theorem loadRegistersReadsAndAdvancesI : Obligations.LoadRegistersReadsAndAdvancesI := by
  refine fun x => ⟨decodeWord_encode (i := .loadRegs x) rfl, fun s hrange => ?_,
    fun s habove => checkAccess_regCount_fault habove _⟩
  have hframe := (FrameExcept.refl (· ≤ x) [.index] s).setV fun r hr => fillRegs_readBytes_above s.v s.mem s.base hr
  exact ⟨_, exec_loadRegs hrange, fun k => fillRegs_readBytes_getElem s.v s.mem s.base,
    State.advancedI_toNat hrange, rfl, (hframe.setI _).advance⟩

/-- Settles O45: a store that completes had its run in memory, so the load of the same run completes (O44) and reads
the bytes the store left. -/
theorem storeThenLoadRestoresTheRegisters : Obligations.StoreThenLoadRestoresTheRegisters := by
  intro x s t u hstore hbytes hi
  have hbase : u.base = s.base := congrArg BitVec.toNat hi
  have hinside : s.base + (x.val + 1) ≤ 4096 := (exec_storeRegs_memory hstore).1
  obtain ⟨-, hload, -⟩ := loadRegistersReadsAndAdvancesI x
  obtain ⟨q, hexec, hregs, hindex, -, -⟩ := hload u (by omega)
  refine ⟨q, hexec, fun k hk => ?_, hi ▸ hindex⟩
  calc q.reg k = u.byteAt (s.base + k.val) := hbase ▸ hregs k hk
    _ = t.byteAt (s.base + k.val) := hbytes _
    _ = s.reg k := exec_storeRegs_byteAt hstore hk

end Sys2Proof.Machine
end

section
/-! PROOFS of the family 49_mode_switch: MODESW (O18). -/
namespace Sys2Proof.Machine

/-! ### MODESW (rule R260) -/

theorem exec_modesw (s : State) : exec .modesw s = .next s.advance := rfl

/-- Settles O18: `exec_modesw` at commit, and the step that runs it by O6. -/
theorem modeSwitchOnlyAdvancesPc : Obligations.ModeSwitchOnlyAdvancesPc := by
  refine ⟨decodeWord_encode (i := .modesw) rfl, by decide, by decide, by decide, exec_modesw,
    fun s hnext hpc hhigh hlow hpolicy => ?_⟩
  have hdecode : decodeWord (wordOfBytes (s.byteAt s.pc.toNat) (s.byteAt (s.pc.toNat + 1))) = some .modesw := by
    rw [hhigh, hlow]
    decide
  obtain ⟨hok, -⟩ := stepRunsTheDecodedInstruction s .modesw hnext hpc hdecode
  exact (hok _ (exec_modesw s.eventTaken)).1 hpolicy

end Sys2Proof.Machine
end

section
/-! PROOFS of the family 60_exceptions: the faults of the execute phase are those of the table of rule R291 (O49), a
fault does not depend on the inputs (O51), and the fault of an opcode that decodes to nothing (O8). -/
namespace Sys2Proof.Machine

/-! ### The fault a result reports -/

theorem reportedFault_eq_some {r : Result} {f : Fault} : reportedFault r = some f ↔ r = .fault f := by
  cases r <;> simp [reportedFault]

theorem exists_next_of_reportedFault_eq_none {r : Result} (hfault : reportedFault r = none)
    (hrefused : ∀ q, r ≠ .refused q) : ∃ t, r = .next t := by
  cases r with
  | next t => exact ⟨t, rfl⟩
  | fault f => cases hfault
  | refused q => exact absurd rfl (hrefused q)

/-! ### What each shared operation reports (rule R291) -/

/-- An access of `k` bytes from I up, where `p` is the table's own condition for its fault. -/
theorem reportedFault_checkAccess {s t : State} {k : Nat} {p : Prop} [Decidable p]
    (hp : p ↔ k ≠ 0 ∧ 4096 < s.base + k) :
    reportedFault (checkAccess s.base k (.next t)) = if p then executeFault.outOfBounds s else none := by
  rcases checkAccess_cases s.base k (.next t) with ⟨hin, e⟩ | ⟨hout, e⟩ <;> rw [e]
  · rw [if_neg (mt hp.1 (by omega))]; rfl
  · rw [if_pos (hp.2 hout)]; rfl

theorem reportedFault_pop {s : State} {next : Word → State → State} :
    reportedFault (pop s fun a t => .next (next a t)) = if s.sp = 0 then some .stackUnderflow else none := by
  rcases pop_cases s fun a t => .next (next a t) with ⟨hempty, e⟩ | ⟨l, a, hstack, e⟩ <;> rw [e, State.sp]
  · rw [hempty]; rfl
  · rw [if_neg (by simp [hstack])]; rfl

theorem reportedFault_push {s : State} {a : Word} {next : State → State} :
    reportedFault (push s a fun t => .next (next t)) =
      if s.sp = s.params.stackDepth then some .stackOverflow else none := by
  split
  next hfull => rw [push_full hfull]; rfl
  next hfree => rw [push_ok hfree]; rfl

theorem reportedFault_withKeyLine {s : State} (hpolicy : s.params.keyRangePolicy = .fault) {k : Byte}
    {next : Bool → State} : reportedFault (withKeyLine s k fun down => .next (next down)) =
      if 15 < k.toNat then some (.keyIndexOutOfRange k) else none := by
  split
  next habove => rw [withKeyLine_none (State.keyLine_none.2 ⟨habove, hpolicy⟩)]; rfl
  next hrange => rw [withKeyLine_some (State.keyLine_inRange (by omega))]; rfl

/-- FX0A completes whatever the key lines: it waits or captures a key (rule R224). -/
theorem reportedFault_ldRegKey (x : Reg) (s : State) : reportedFault (exec (.ldRegKey x) s) = none := by
  cases hkey : s.selectedKey with
  | none => rw [exec_ldRegKey_of_none x hkey]; rfl
  | some k => rw [exec_ldRegKey_of_some x hkey]; rfl

/-! ### The table of rule R291 -/

/-- Instruction by instruction, the fault reported is the table's: the eight that can fault go through a shared
operation, the others complete. -/
theorem reportedFault_exec {s : State} (hpolicy : s.params.keyRangePolicy = .fault) (i : Instr) :
    reportedFault (exec i s) = executeFault s i := by
  cases i with
  | ret => rw [exec_ret]; exact reportedFault_pop
  | call nnn => rw [exec_call]; exact reportedFault_push
  | skp | sknp => exact reportedFault_withKeyLine hpolicy
  | drw x y n => exact reportedFault_checkAccess (by rw [State.base]; omega)
  | ldBcd x => exact reportedFault_checkAccess (by rw [State.base]; omega)
  | storeRegs x | loadRegs x => exact reportedFault_checkAccess (by rw [State.base, regCount]; omega)
  | ldRegKey x => exact reportedFault_ldRegKey x s
  | _ => rfl

/-- Settles O49: `reportedFault_exec`, and what neither faults nor is refused completes. -/
theorem executeFaultsAreTheOnesListed : Obligations.ExecuteFaultsAreTheOnesListed := by
  intro i s _ hpolicy
  have htable := reportedFault_exec hpolicy i
  refine ⟨fun f => ?_, fun hnone => ?_, rfl, rfl⟩
  · rw [← htable, reportedFault_eq_some]
  · exact exists_next_of_reportedFault_eq_none (htable.trans hnone) (noInstructionIsRefused.1 i s)

/-! ### A fault and the inputs (rules R275, R279, R281) -/

theorem withKeyLine_next_eq_fault {s : State} {k : Byte} {f : Fault} {next : Bool → State} :
    withKeyLine s k (fun down => .next (next down)) = .fault f ↔
      s.keyLine k = none ∧ f = .keyIndexOutOfRange k := by
  cases hline : s.keyLine k with
  | none => rw [withKeyLine_none hline]; simp [eq_comm]
  | some down => rw [withKeyLine_some hline]; simp

/-- Whether a register value names a key line is a matter of the value and the policy, not of the lines. -/
theorem State.keyLine_setKeys_eq_none {s : State} {k : Byte} (keys : Vector Bool 16) :
    (s.setKeys keys).keyLine k = none ↔ s.keyLine k = none := by
  rw [State.keyLine_none, State.keyLine_none, State.setKeys_params]

/-- An instruction that faults faults alike under any key lines: EX9E and EXA1 by the number in V[X], FX0A never, and
the others read no key line (O57). -/
theorem exec_fault_setKeys {i : Instr} {s : State} {f : Fault} (h : exec i s = .fault f) (keys : Vector Bool 16) :
    exec i (s.setKeys keys) = .fault f := by
  cases i with
  | skp | sknp =>
    obtain ⟨hnone, hf⟩ := withKeyLine_next_eq_fault.1 h
    exact withKeyLine_next_eq_fault.2 ⟨(State.keyLine_setKeys_eq_none keys).2 hnone, hf⟩
  | ldRegKey x =>
    have hnone := reportedFault_ldRegKey x s
    rw [h] at hnone
    cases hnone
  | _ => exact (keysAreReadByKeyInstructionsOnly _ s keys (by nofun) (by nofun) (by nofun)).2 f h

/-- An instruction that faults faults alike under any random input: CXNN never, and the others read none of it (O58). -/
theorem exec_fault_withRandomInput {i : Instr} {s : State} {f : Fault} (h : exec i s = .fault f) (queue : List Byte)
    (draws : Nat) : exec i (s.withRandomInput queue draws) = .fault f := by
  cases i with
  | rnd => cases h
  | _ => exact (randomByteIsReadByRndOnly _ s queue draws (by nofun)).2 f h

/-- A tick repeats its fault from a state with the same fetch and PC, if its instruction does. -/
theorem tick_fault_of_exec_fault {s t : State} {f : Fault} (hfetch : fetch t = fetch s) (hpc : t.pc = s.pc)
    (hexec : ∀ i, exec i s = .fault f → exec i t = .fault f) (h : tick s = .fault f) : tick t = .fault f := by
  unfold tick at h ⊢
  rw [hfetch, hpc]
  split at h
  · exact h
  · split at h
    · exact h
    · exact timersAfter_fault.2 (hexec _ (timersAfter_fault.1 h))

/-- Settles O51: the fetch reads PC and memory only, and an instruction's fault outlives a change of either input. -/
theorem faultsDependOnTheStateAlone : Obligations.FaultsDependOnTheStateAlone := by
  intro s f keys queue draws hnext hstep
  have htick : tick s.eventTaken = .fault f := step_tick hnext ▸ hstep
  have hfetch : fetch ((s.eventTaken.withRandomInput queue draws).setKeys keys) = fetch s.eventTaken := rfl
  calc step { s with keys := keys, randQueue := queue, draws := draws }
      = tick ((s.eventTaken.withRandomInput queue draws).setKeys keys) := step_tick hnext
    _ = .fault f := tick_fault_of_exec_fault hfetch rfl
        (fun _ hexec => exec_fault_setKeys (exec_fault_withRandomInput hexec queue draws) keys) htick

/-! ### An opcode that decodes to nothing (rules R95, R271) -/

/-- Settles O8: `step_of_undecoded`, and the opcode as a number. -/
theorem illegalOpcodeReportsOpcodeAndPc : Obligations.IllegalOpcodeReportsOpcodeAndPc := by
  refine fun s hnext hpc hnone => ⟨_, ?_, step_of_undecoded hnext hpc rfl hnone, rfl⟩
  rw [toNat_wordOfBytes, Nat.mul_comm]

end Sys2Proof.Machine
end

section
/-! PROOFS of the family 70_reset_and_hazards: the host's reset (O12) and load (O13, O14). -/
namespace Sys2Proof.Machine

/-! ### Reset (rules R300, R39) -/

theorem step_reset {s : State} (h : s.nextEvent = .reset) : step s = .next (hostReset s.eventTaken) := by
  rw [step, h, runEvent]

/-- A reset installs `State.reset` in every piece of state the reset values speak of. -/
theorem hasResetValues_hostReset (s : State) : HasResetValues (hostReset s) :=
  have ⟨regs, index, pc, stack, timers, screen⟩ := hasResetValues_reset
  ⟨regs, index, pc, stack, timers, screen⟩

/-- The reset values are those of every piece of state but memory. -/
theorem HasResetValues.setMem {s : State} (h : HasResetValues s) (m : Memory) : HasResetValues (s.setMem m) :=
  { h with }

theorem byteAt_hostReset (s : State) (a : Nat) : (hostReset s).byteAt a = resetByte a := byteAt_reset a

/-- Settles O12: `hostReset` installs the reset values and nothing in the fields that are no state of the block. -/
theorem hostResetReinstallsTheResetValues : Obligations.HostResetReinstallsTheResetValues := fun _ hnext =>
  ⟨_, step_reset hnext, hasResetValues_hostReset _, fun a _ => byteAt_hostReset _ a, rfl, rfl, rfl, rfl, rfl⟩

/-! ### Load (rules R303, R304) -/

theorem step_load {s : State} {rom : List Byte} (h : s.nextEvent = .load rom) :
    step s = .next (hostLoad rom s.eventTaken) := by
  rw [step, h, runEvent]

theorem hostLoad_of_length_le {rom : List Byte} (h : rom.length ≤ 3584) (s : State) :
    hostLoad rom s = (hostReset s).setMem ((hostReset s).mem.writeBytes 0x200 rom) :=
  if_pos h

theorem hostLoad_of_lt_length {rom : List Byte} (h : 3584 < rom.length) (s : State) : hostLoad rom s = s :=
  if_neg (Nat.not_le_of_lt h)

/-- Settles O13: the run written is the ROM, and every byte outside it is as the reset left it. -/
theorem loadCopiesTheRomAfterAReset : Obligations.LoadCopiesTheRomAfterAReset := by
  intro s rom hnext hlen
  refine ⟨_, step_load hnext, ?_⟩
  rw [hostLoad_of_length_le hlen]
  refine ⟨(hasResetValues_hostReset _).setMem _, fun j hj => byteAt_setMem_writeBytes _ _ hj,
    fun a _ houtside => ?_, rfl, rfl, rfl⟩
  exact (bytesKeptOutside_setMem _ _ rom a houtside).trans (byteAt_hostReset _ a)

/-- Settles O14: a ROM too long for the program area is not loaded. -/
theorem loadLongerThanMemoryDoesNothing : Obligations.LoadLongerThanMemoryDoesNothing := by
  intro s rom hnext hlong
  rw [step_load hnext, hostLoad_of_lt_length hlong]

end Sys2Proof.Machine
end
